-- ==== Sys2Proof/Word.lean ====
section
/-! DEFINITION. The word types of the DSC core. Symbols, payload groups and code words are bits (R9, R94, R103);
every other quantity is a natural (R9, R13). -/

namespace Sys2Proof

/-- One 8-bit symbol of a buffer (R8, R9): bit 7 is the most significant. -/
abbrev Byte := BitVec 8

/-- The 7-bit payload group of one varint byte (R94). -/
abbrev Group := BitVec 7

/-- One 16-bit LZW code word (R103). -/
abbrev CodeWord := BitVec 16

/-- A byte sequence used as a dictionary key or entry (R10). -/
abbrev Phrase := List Byte

end Sys2Proof
end

