-- ==== Sys2Proof/Config.lean ====
section
/-! DEFINITION. What an implementation of the DSC core fixes (R8), and the free values: every value the spec leaves
unspecified is one of the `opaque` constants below, which nothing can evaluate. -/

namespace Sys2Proof

/-! ### Constants the spec fixes (R8) -/

namespace Config

/-- `W_DEFAULT`, the reset value of `WSIZE` (R8, D8). -/
def wDefault : Nat := 4096
/-- The first code the LZ78 dictionaries assign (R8). -/
def lz78FirstCode : Nat := 1
/-- The number of pre-seeded LZW entries (R8). -/
def lzwSeed : Nat := 256
/-- The first code LZW assigns (R8). -/
def lzwFirstCode : Nat := 256
/-- `MAX_TABLE`, the LZW dictionary's maximum entry count (R8). -/
def maxTable : Nat := 4096

end Config

/-! ### Parameters the spec leaves open (R8, U12) -/

/-- The open parameters of one implementation. `none` is the spec's admitted infinity. A step never changes them;
they are a field of `State` so that a statement about every state is a statement about every implementation
(log entry 2). -/
structure Params where
  /-- `XW`, the width of every host-visible numeric register (R8, D6). -/
  xw : Option Nat
  /-- `IN_CAP` (R8, D7). -/
  inCap : Option Nat
  /-- `OUT_CAP` (R8, D7). -/
  outCap : Option Nat
  /-- `L_DEFAULT`, the reset value of `LSIZE` (R8, D9). -/
  lDefault : Nat
  /-- `REG_BASE` (R8, D2). -/
  regBase : Nat
  /-- `IN_BASE` (R8, D2). -/
  inBase : Nat
  /-- `OUT_BASE` (R8, D2). -/
  outBase : Nat
  deriving DecidableEq, Repr

namespace Params

/-- `v` keeps its low `XW` bits; unchanged when `XW` is infinity (R21). -/
def trunc (p : Params) (v : Nat) : Nat :=
  match p.xw with
  | none => v
  | some w => v % 2 ^ w

/-- `v` fits a register of `XW` bits (R21). -/
abbrev fits (p : Params) (v : Nat) : Prop := p.trunc v = v

/-- A capacity R8 admits: at least 1 and at most `2^XW - 1`; infinity goes with `XW = infinity` (log entry 17). -/
abbrev capOk (p : Params) (cap : Option Nat) : Prop :=
  (cap = none → p.xw = none) ∧ ∀ c ∈ cap, 1 ≤ c ∧ p.fits c

/-- The parameters R8 admits: the two capacities, and an `XW` that both reset values of R52 fit. The smallest such
finite `XW` is 13, so `RES2`'s bit 8 fits too. -/
abbrev wf (p : Params) : Prop :=
  p.capOk p.inCap ∧ p.capOk p.outCap ∧ p.fits p.lDefault ∧ p.fits Config.wDefault

/-- Where the platform places the register at `off` (R21, R72). -/
def regAddr (p : Params) (off : Nat) : Nat := p.regBase + off
/-- Where the platform places `IN[a]` (R72). -/
def inAddr (p : Params) (a : Nat) : Nat := p.inBase + a
/-- Where the platform places `OUT[a]` (R72). -/
def outAddr (p : Params) (a : Nat) : Nat := p.outBase + a

end Params

namespace Config

/-- `L_DEFAULT`: OPEN, no value chosen (R8, D9; log entry 3). -/
opaque lDefault : Nat
/-- `REG_BASE`: OPEN (R8, D2; log entry 3). -/
opaque regBase : Nat
/-- `IN_BASE`: OPEN (R8, D2; log entry 3). -/
opaque inBase : Nat
/-- `OUT_BASE`: OPEN (R8, D2; log entry 3). -/
opaque outBase : Nat

/-- The parameters that `State.reset` takes (DESIGN CHOICE, log entry 2): `XW` is the spec's default 32, the two
capacities the largest it admits there. -/
def params : Params where
  xw := some 32
  inCap := some 4294967295
  outCap := some 4294967295
  lDefault := lDefault % 2 ^ 32
  regBase := regBase
  inBase := inBase
  outBase := outBase

/-! ### Free values (R33, R49, R52, R53, R287; U7, U8, U11) -/

/-- Which numeric register a free value is drawn for. -/
inductive Slot where
  | res0 | res1 | pos | nextCode | tDist | tLen | bestD | bestK | varintValue | varintCount | varintOffset | dictMiss
  deriving DecidableEq, Repr

/-- The two byte memories. -/
inductive Buffer where
  | input | output
  deriving DecidableEq, Repr

/-- The `n`-th free value of a numeric register. -/
opaque freeNat : Slot → Nat → Nat
/-- The `n`-th free value of `RES2`. -/
opaque freeRes2 : Nat → BitVec 9
/-- The `n`-th free value of `CUR`. -/
opaque freeCur : Nat → Phrase
/-- The `n`-th free value of `PREV`. -/
opaque freePrev : Nat → Phrase
/-- The `n`-th free value of `T_NEXT`. -/
opaque freeNext : Nat → Option Byte
/-- The `n`-th free value of `DICT78E`. -/
opaque freeDict78e : Nat → List (Phrase × Nat)
/-- The `n`-th free value of `DICT78D`. -/
opaque freeDict78d : Nat → List (Nat × Phrase)
/-- The `n`-th free value of `DICTWE`. -/
opaque freeDictwe : Nat → List (Phrase × Nat)
/-- The `n`-th free value of `DICTWD`. -/
opaque freeDictwd : Nat → List (Nat × Phrase)
/-- The free content of index `a` of a buffer since its `n`-th loss of contents. -/
opaque freeByte : Buffer → Nat → Nat → Byte

end Config

end Sys2Proof
end

