-- ==== Sys2Proof/Syntax.lean ====
section
/-! DEFINITION. The instructions: one constructor per row of spec/opcode_table.json. The table has two levels (R90):
the commands a host writes to `CMD`, and the stream units a decoder command consumes from `IN`. -/

namespace Sys2Proof

/-- The instructions of the opcode table. -/
inductive Instr where
  /-- VENC, opcode 0x01 (R131). -/
  | venc
  /-- VDEC, opcode 0x02 (R133). -/
  | vdec
  /-- MATCH, opcode 0x03 (R153). -/
  | matcher
  /-- LZ77C, opcode 0x04 (R172). -/
  | lz77c
  /-- LZ77D, opcode 0x05 (R180). -/
  | lz77d
  /-- LZ78C, opcode 0x06 (R202). -/
  | lz78c
  /-- LZ78D, opcode 0x07 (R210). -/
  | lz78d
  /-- LZWC, opcode 0x08 (R232). -/
  | lzwc
  /-- LZWD, opcode 0x09 (R240). -/
  | lzwd
  /-- CLR, opcode 0x0F (R264). -/
  | clr
  /-- ILLEGAL: any other opcode (R93, R263). -/
  | illegal (op : Byte)
  /-- VARINT.CONT: a varint byte that is not the last, with its payload group (R94, R132). -/
  | varintCont (g : Group)
  /-- VARINT.LAST: the last byte of a varint, with its payload group (R94, R132). -/
  | varintLast (g : Group)
  /-- LZ77TOK.NOLIT: the token `(dist, len, None)` (R98, R180). -/
  | lz77tokNolit (dist len : Nat)
  /-- LZ77TOK.LIT: the token `(dist, len, Some lit)` (R98, R180). -/
  | lz77tokLit (dist len : Nat) (lit : Byte)
  /-- LZ77TOK.RESERVED: a token whose marker is 0x02 to 0xFF (R99, R180). -/
  | lz77tokReserved (dist len : Nat) (mark : Byte)
  /-- LZ78PAIR: the pair `(index, lit)` (R101, R210). -/
  | lz78pair (index : Nat) (lit : Byte)
  /-- LZWCODE: the code word `k` (R103, R240). -/
  | lzwcode (k : CodeWord)
  deriving DecidableEq, Repr

/-- The encoding formats (R91, R94, R98, R101, R103). A bit pattern names an instruction only within one of them. -/
inductive Format where
  | cmd8 | varint | lz77tok | lz78pair | lzwcode
  deriving DecidableEq, Repr

/-- The format an instruction is encoded in (the opcode table's "format"). -/
def Instr.format : Instr → Format
  | .venc | .vdec | .matcher | .lz77c | .lz77d | .lz78c | .lz78d | .lzwc | .lzwd | .clr | .illegal _ => .cmd8
  | .varintCont _ | .varintLast _ => .varint
  | .lz77tokNolit _ _ | .lz77tokLit _ _ _ | .lz77tokReserved _ _ _ => .lz77tok
  | .lz78pair _ _ => .lz78pair
  | .lzwcode _ => .lzwcode

end Sys2Proof
end

