-- ==== Sys2Proof/WellFormed.lean ====
section
/-! DEFINITION. Which terms of `Instr` stand for an encoding. -/

namespace Sys2Proof

/-- The opcodes R92 assigns: 0x01 to 0x09 and 0x0F. -/
abbrev assignedOpcode (op : Byte) : Prop := (1 ≤ op.toNat ∧ op.toNat ≤ 9) ∨ op.toNat = 15

/-- A term that an encoding stands for: an illegal command has an opcode R92 does not assign (R93), and a reserved
token a marker other than 0x00 and 0x01 (R99). Distances, lengths and indices are naturals of any size (R96). -/
abbrev Instr.wellFormed (i : Instr) : Prop :=
  match i with
  | .illegal op => ¬ assignedOpcode op
  | .lz77tokReserved _ _ mark => 2 ≤ mark.toNat
  | _ => True

end Sys2Proof
end

