-- ==== Sys2Proof/Decode.lean ====
section
/-! DEFINITION. The decoder, total on any bytes and rejecting by name, and the encoder, both written from the
encoding rules R91 to R106. A format names the place a unit is read at: the command port or one decoder's stream. -/

namespace Sys2Proof

/-! ### Bit fields and byte order -/

/-- The continuation bit of a varint byte, bit 7: the byte is 128 or more (R9, R94, R132). -/
def contBit (x : Byte) : Bool := decide (128 ≤ x.toNat)

/-- The payload group of a varint byte, bits 6:0: `x mod 128` (R9, R94, R132). -/
def payload (x : Byte) : Group := BitVec.ofNat 7 x.toNat

/-- The varint byte with continuation bit `c` and payload group `g`: `128 * c + g` (R9, R94, R130). -/
def varintByte (c : Bool) (g : Group) : Byte := BitVec.ofNat 8 ((if c then 128 else 0) + g.toNat)

/-- A code word from its two bytes, the more significant one first: `256 * hi + lo` (R68, R103). -/
def codeOfBytes (hi lo : Byte) : CodeWord := BitVec.ofNat 16 (256 * hi.toNat + lo.toNat)

/-- The more significant byte of a code word: `v div 256` (R67, R103). -/
def codeHi (k : CodeWord) : Byte := BitVec.ofNat 8 (k.toNat / 256)

/-- The less significant byte of a code word: `v mod 256` (R67, R103). -/
def codeLo (k : CodeWord) : Byte := BitVec.ofNat 8 (k.toNat % 256)

/-! ### Decoding -/

/-- Why bytes hold no unit of a format. -/
inductive DecodeError where
  /-- No byte at the command port. -/
  | opcodeMissing
  /-- The bytes end before a varint byte with bit 7 clear (R97). -/
  | varintUnterminated
  /-- The bytes end before a token's marker (R186). -/
  | markerMissing
  /-- The bytes end before a token's or a pair's literal (R186, R211). -/
  | literalMissing
  /-- Fewer than two bytes for a code word (R104). -/
  | codeTruncated
  deriving DecidableEq, Repr

/-- The decoder's answer: an instruction with the number of bytes it takes, or a rejection by name. -/
inductive Decoded where
  | ok (i : Instr) (size : Nat)
  | error (e : DecodeError)
  deriving DecidableEq, Repr

/-- The command an opcode selects (R92, R93). -/
def decodeCommand (op : Byte) : Instr :=
  match op.toNat with
  | 0x01 => .venc
  | 0x02 => .vdec
  | 0x03 => .matcher
  | 0x04 => .lz77c
  | 0x05 => .lz77d
  | 0x06 => .lz78c
  | 0x07 => .lz78d
  | 0x08 => .lzwc
  | 0x09 => .lzwd
  | 0x0F => .clr
  | _ => .illegal op

/-- One byte of a varint as an instruction (R94). -/
def decodeVarintByte (x : Byte) : Instr :=
  if contBit x then .varintCont (payload x) else .varintLast (payload x)

/-- The value and the byte length of the varint at the head of `bs`, or `none` if it is unterminated: the sum of
`x_j[6:0] * 128^j` up to the first byte with bit 7 clear, for any number of bytes (R95, R96, R97, R132). -/
def decodeVarint : List Byte → Option (Nat × Nat)
  | [] => none
  | x :: xs =>
    if contBit x then
      match decodeVarint xs with
      | none => none
      | some (v, k) => some ((payload x).toNat + 128 * v, k + 1)
    else some ((payload x).toNat, 1)

/-- The token at the head of `bs`: two varints, the marker, and the literal if the marker is 0x01, each tested in
that order (R98, R99, R180, R291). -/
def decodeToken (bs : List Byte) : Decoded :=
  match decodeVarint bs with
  | none => .error .varintUnterminated
  | some (dist, a) =>
    match decodeVarint (bs.drop a) with
    | none => .error .varintUnterminated
    | some (len, b) =>
      match bs.drop (a + b) with
      | [] => .error .markerMissing
      | mark :: rest =>
        if mark = 0x01#8 then
          match rest with
          | [] => .error .literalMissing
          | lit :: _ => .ok (.lz77tokLit dist len lit) (a + b + 2)
        else if mark = 0x00#8 then .ok (.lz77tokNolit dist len) (a + b + 1)
        else .ok (.lz77tokReserved dist len mark) (a + b + 1)

/-- The pair at the head of `bs`: the index varint, then the literal (R101, R210). -/
def decodePair (bs : List Byte) : Decoded :=
  match decodeVarint bs with
  | none => .error .varintUnterminated
  | some (index, a) =>
    match bs.drop a with
    | [] => .error .literalMissing
    | lit :: _ => .ok (.lz78pair index lit) (a + 1)

/-- The code word at the head of `bs` (R103). -/
def decodeCode : List Byte → Decoded
  | hi :: lo :: _ => .ok (.lzwcode (codeOfBytes hi lo)) 2
  | _ => .error .codeTruncated

/-- The decoder: the unit of format `f` at the head of `bs`. -/
def decode (f : Format) (bs : List Byte) : Decoded :=
  match f with
  | .cmd8 =>
    match bs with
    | [] => .error .opcodeMissing
    | op :: _ => .ok (decodeCommand op) 1
  | .varint =>
    match bs with
    | [] => .error .varintUnterminated
    | x :: _ => .ok (decodeVarintByte x) 1
  | .lz77tok => decodeToken bs
  | .lz78pair => decodePair bs
  | .lzwcode => decodeCode bs

/-! ### Encoding -/

/-- `VarintEncode` with at most `fuel` continuation bytes (R130). -/
def encodeVarintFuel : Nat → Nat → List Byte
  | 0, n => [varintByte false (BitVec.ofNat 7 n)]
  | fuel + 1, n =>
    if n / 128 ≠ 0 then varintByte true (BitVec.ofNat 7 n) :: encodeVarintFuel fuel (n / 128)
    else [varintByte false (BitVec.ofNat 7 n)]

/-- `VarintEncode(n)`: seven low bits per byte, least significant group first, the shortest form (R96, R130). A
number has at most `log2 n` continuation bytes, so the fuel never runs out. -/
def encodeVarint (n : Nat) : List Byte := encodeVarintFuel (Nat.log2 n) n

/-- The marker and literal bytes of a token's optional next symbol (R98). -/
def encodeNext : Option Byte → List Byte
  | some lit => [0x01#8, lit]
  | none => [0x00#8]

/-- The bytes of a token (R98). -/
def encodeToken (dist len : Nat) (next : Option Byte) : List Byte :=
  encodeVarint dist ++ encodeVarint len ++ encodeNext next

/-- The bytes of a pair (R101). -/
def encodePair (index : Nat) (lit : Byte) : List Byte := encodeVarint index ++ [lit]

/-- The bytes of a code word, big-endian (R67, R103). -/
def encodeCode (k : CodeWord) : List Byte := [codeHi k, codeLo k]

/-- The opcode of a command (R92); a stream unit has none. -/
def opcode : Instr → Byte
  | .venc => 0x01#8
  | .vdec => 0x02#8
  | .matcher => 0x03#8
  | .lz77c => 0x04#8
  | .lz77d => 0x05#8
  | .lz78c => 0x06#8
  | .lz78d => 0x07#8
  | .lzwc => 0x08#8
  | .lzwd => 0x09#8
  | .clr => 0x0F#8
  | .illegal op => op
  | .varintCont _ | .varintLast _ | .lz77tokNolit _ _ | .lz77tokLit _ _ _ | .lz77tokReserved _ _ _
  | .lz78pair _ _ | .lzwcode _ => 0x00#8

/-- The bytes of a well-formed instruction (R91 to R103). -/
def encode (i : Instr) : List Byte :=
  match i with
  | .venc | .vdec | .matcher | .lz77c | .lz77d | .lz78c | .lz78d | .lzwc | .lzwd | .clr | .illegal _ => [opcode i]
  | .varintCont g => [varintByte true g]
  | .varintLast g => [varintByte false g]
  | .lz77tokNolit dist len => encodeToken dist len none
  | .lz77tokLit dist len lit => encodeToken dist len (some lit)
  | .lz77tokReserved dist len mark => encodeVarint dist ++ encodeVarint len ++ [mark]
  | .lz78pair index lit => encodePair index lit
  | .lzwcode k => encodeCode k

/-! ### The opcode table's numbering -/

/-- The bytes of a table word of `nbits` bits, first byte first: the first byte is bits 7:0. A 16-bit word is one
`LZWCODE`, which is stored big-endian (R69, R103). A zero byte stands behind it (the bits above `nbits`). -/
def tableBytes (nbits w : Nat) : List Byte :=
  if nbits = 16 then [BitVec.ofNat 8 (w / 256), BitVec.ofNat 8 w]
  else (List.range ((nbits + 7) / 8)).map (fun j => BitVec.ofNat 8 (w / 2 ^ (8 * j))) ++ [0x00#8]

/-- Which format a table word is read in (log entry 14). One byte: a command if R92 assigns the opcode; otherwise a
varint byte if it is 0x00 or has bit 7 set, and an unassigned command if not. Two bytes: a code word. Three or more:
a pair if the first byte continues a varint and the second ends it as the whole index, else a token. -/
def tableFormat (nbits w : Nat) : Format :=
  if nbits ≤ 8 then
    if w % 256 = 15 ∨ (1 ≤ w % 256 ∧ w % 256 ≤ 9) then .cmd8
    else if w % 256 = 0 ∨ 128 ≤ w % 256 then .varint
    else .cmd8
  else if nbits = 16 then .lzwcode
  else if nbits = 24 ∧ 128 ≤ w % 256 then .lz78pair
  else .lz77tok

/-- The instruction the decoder reads from a table word. -/
def decodeTableWord (nbits w : Nat) : Option Instr :=
  match decode (tableFormat nbits w) (tableBytes nbits w) with
  | .ok i _ => some i
  | .error _ => none

end Sys2Proof
end

