-- ==== Sys2Proof/Machine/State.lean ====
section
/-! DEFINITION. The state of the DSC core (R20), the reasons a step can stop, and the state after reset (R52). -/

namespace Sys2Proof.Machine

/-- `STATUS.STATE` (R23). -/
inductive Status where
  | idle | busy | done | error
  deriving DecidableEq, Repr

/-- The error kinds (R280); `ERRKIND.KIND` holds none of them or one (R24). -/
inductive ErrKind where
  | malformedInput | corruptStream | emptyStream | overflow | illegalOperation
  deriving DecidableEq, Repr

/-- A byte memory: its written bytes, addresses strictly rising. An unlisted index has no value of its own; what the
engine reads there is a free value (log entries 8 and 9). -/
abbrev Mem := List Host.Cell

/-- The canonical form of a memory: strictly rising addresses. -/
abbrev Mem.wf (m : Mem) : Prop := m.Pairwise (fun p q => p.1 < q.1)

/-- One move of the host (R7, R21, R76, R320). -/
inductive HostOp where
  /-- A write of `value` to the register at byte offset `off` (R21, R22, R33). -/
  | writeReg (off value : Nat)
  /-- A read of the register at byte offset `off` (R21). -/
  | readReg (off : Nat)
  /-- A write of one byte of `IN` (R48). -/
  | writeIn (a : Nat) (b : Byte)
  /-- A read of one byte of `OUT` (R49). -/
  | readOut (a : Nat)
  /-- The host moves `OUT[0 : OUT_LEN]` into `IN` and writes `IN_LEN` (R76, R325). -/
  | copyOutToIn
  /-- The platform's reset input (R320). -/
  | reset
  deriving DecidableEq, Repr

/-- The engine's working state, alive only while a command runs (R20, R34 to R44). The last three fields are the
local variables of `VarintDecode` (R132) while its bytes are taken one at a time (log entry 13). -/
structure Work where
  /-- `POS`, the stream cursor (R34). -/
  pos : Nat
  /-- `CUR` (R35). -/
  cur : Phrase
  /-- `PREV` (R36). -/
  prev : Phrase
  /-- `NEXT_CODE` (R37). -/
  nextCode : Nat
  /-- `T_DIST` (R38). -/
  tDist : Nat
  /-- `T_LEN` (R38). -/
  tLen : Nat
  /-- `T_NEXT` (R38). -/
  tNext : Option Byte
  /-- `BEST_D` (R39). -/
  bestD : Nat
  /-- `BEST_K` (R39). -/
  bestK : Nat
  /-- `DICT78E`: phrase to code, newest entry first (R41). -/
  dict78e : List (Phrase × Nat)
  /-- `DICT78D`: code to phrase, newest entry first (R42). -/
  dict78d : List (Nat × Phrase)
  /-- `DICTWE`: phrase to code, newest entry first (R43). -/
  dictwe : List (Phrase × Nat)
  /-- `DICTWD`: code to phrase, newest entry first (R44). -/
  dictwd : List (Nat × Phrase)
  /-- `v` of `VarintDecode` (R132). -/
  vValue : Nat
  /-- `j` of `VarintDecode` (R132). -/
  vCount : Nat
  /-- `off` of `VarintDecode` (R132). -/
  vOff : Nat
  deriving DecidableEq, Repr

/-- The working state when the spec calls it unspecified (R52, R53): the `n`-th free draw (log entries 5 and 6). -/
def Work.unspecified (n : Nat) : Work where
  pos := Config.freeNat .pos n
  cur := Config.freeCur n
  prev := Config.freePrev n
  nextCode := Config.freeNat .nextCode n
  tDist := Config.freeNat .tDist n
  tLen := Config.freeNat .tLen n
  tNext := Config.freeNext n
  bestD := Config.freeNat .bestD n
  bestK := Config.freeNat .bestK n
  dict78e := Config.freeDict78e n
  dict78d := Config.freeDict78d n
  dictwe := Config.freeDictwe n
  dictwd := Config.freeDictwd n
  vValue := Config.freeNat .varintValue n
  vCount := Config.freeNat .varintCount n
  vOff := Config.freeNat .varintOffset n

/-- The machine. `par` is configuration that no step changes (R8); `inEpoch`, `outEpoch`, `freeCount`, `host` and
`rdata` are the model's own fields (log entries 8, 9, 10, 20, 23); all the rest is the spec's (R20). -/
structure State where
  /-- The open parameters (R8). -/
  par : Params
  /-- `CMD.OPCODE` (R22). -/
  cmd : Byte
  /-- `STATUS.STATE` (R23). -/
  status : Status
  /-- `ERRKIND.KIND` (R24); `none` is kind 0. -/
  kind : Option ErrKind
  /-- `WSIZE` (R25). -/
  wsize : Nat
  /-- `LSIZE` (R26). -/
  lsize : Nat
  /-- `IN_LEN` (R27). -/
  inLen : Nat
  /-- `OUT_LEN` (R28). -/
  outLen : Nat
  /-- `ARG0` (R29). -/
  arg0 : Nat
  /-- `RES0` (R30). -/
  res0 : Nat
  /-- `RES1` (R31). -/
  res1 : Nat
  /-- `RES2`: bit 8 `PRESENT`, bits 7:0 `SYM` (R32). -/
  res2 : BitVec 9
  /-- `IN` (R48). -/
  inBuf : Mem
  /-- `OUT` (R49). -/
  outBuf : Mem
  /-- The engine's working state (R20). -/
  work : Work
  /-- Which free contents the unwritten bytes of `IN` have. -/
  inEpoch : Nat
  /-- Which free contents the unwritten bytes of `OUT` have. -/
  outEpoch : Nat
  /-- How many free draws have been made. -/
  freeCount : Nat
  /-- The host's moves still to come, the next one first. -/
  host : List HostOp
  /-- What the host's last read returned. -/
  rdata : Nat
  deriving DecidableEq, Repr

/-- A read or write outside the address space, by the host; the engine raises none of these. Each is safe: the
machine stops where the spec gives no such address. -/
inductive Fault where
  /-- The host wrote `IN[a]`, or moved `OUT` into `IN`, beyond `IN_CAP` (R48). Raised by the host's moves. Safe. -/
  | inIndexOutOfRange
  /-- The host read `OUT[a]` at or beyond `OUT_CAP` (R49). Raised by the host's moves. Safe. -/
  | outIndexOutOfRange
  deriving DecidableEq, Repr

/-- Why the model gives a step no meaning. -/
inductive Refusal where
  /-- Not modelled yet: raised by no arm of `exec`. Safe. -/
  | notModelled (mnemonic : String)
  /-- A `CMD` write while `STATE = BUSY`, which the spec gives no behaviour (R74, U9). Raised by the commands'
  meanings; `step` never makes one. Safe. -/
  | hostAccessWhileBusy
  /-- A stream unit where no command that consumes it runs; the spec gives it no effect there (R90). Raised by the
  stream units' meanings; `step` never makes one. Safe. -/
  | unitOutsideItsDecoder
  /-- A register access at an offset below 0x2C that is no register's (R21 gives none a meaning). Raised by the
  host's moves. Safe. -/
  | noRegisterAtOffset
  deriving DecidableEq, Repr

/-- The state after a reset of an implementation with parameters `p`, taking the `n`-th free draw for all that R52
leaves unspecified. -/
def State.resetFrom (p : Params) (n : Nat) : State where
  par := p
  cmd := 0x00#8
  status := .idle
  kind := none
  wsize := Config.wDefault
  lsize := p.lDefault
  inLen := 0
  outLen := 0
  arg0 := 0
  res0 := p.trunc (Config.freeNat .res0 n)
  res1 := p.trunc (Config.freeNat .res1 n)
  res2 := Config.freeRes2 n
  inBuf := []
  outBuf := []
  work := Work.unspecified n
  inEpoch := n
  outEpoch := n
  freeCount := n + 1
  host := []
  rdata := 0

/-- Power-on of an implementation with parameters `p` (R52, R321). -/
def State.resetWith (p : Params) : State := State.resetFrom p 0

/-- The machine right after reset (R52, R321), with the parameters of log entries 2 and 3. -/
def State.reset : State := State.resetWith Config.params

end Sys2Proof.Machine
end

