-- ==== Sys2Proof/Machine/Ops.lean ====
section
/-! DEFINITION. The shared operations: memories, dictionaries, command start, the appends to `OUT`, error completion
and success. Every meaning is written over these. -/

namespace Sys2Proof.Machine

/-! ### Byte memories (R48, R49, R60 to R64) -/

/-- The byte written at `a`, if any. -/
def Mem.get? : Mem → Nat → Option Byte
  | [], _ => none
  | (x, b) :: rest, a => if x = a then some b else Mem.get? rest a

/-- Writes `b` at `a`, keeping the addresses strictly rising. -/
def Mem.set : Mem → Nat → Byte → Mem
  | [], a, b => [(a, b)]
  | (x, c) :: rest, a, b =>
    if a < x then (a, b) :: (x, c) :: rest
    else if a = x then (a, b) :: rest
    else (x, c) :: Mem.set rest a b

/-- Writes `bs` at `a`, `a + 1`, … -/
def Mem.setSeq (m : Mem) (a : Nat) : List Byte → Mem
  | [] => m
  | b :: bs => Mem.setSeq (m.set a b) (a + 1) bs

/-- `MemRead(IN, a, 1)` (R61); a byte nothing has written is a free value (R52, U11). -/
def State.inByte (s : State) (a : Nat) : Byte :=
  (s.inBuf.get? a).getD (Config.freeByte .input s.inEpoch a)

/-- `MemRead(OUT, a, 1)` (R62): the byte written at `a`, or a free value where none is, as after an output is withdrawn
(R49, R287). The engine reads below `OUT_LEN` only; what the host reads is `readOut`. -/
def State.outByte (s : State) (a : Nat) : Byte :=
  (s.outBuf.get? a).getD (Config.freeByte .output s.outEpoch a)

/-- `IN[p : IN_LEN]` (R10, R27). -/
def State.inFrom (s : State) (p : Nat) : List Byte := (List.range' p (s.inLen - p)).map s.inByte

/-- The input buffer `IN[0 : IN_LEN]` (R27). -/
def State.input (s : State) : List Byte := s.inFrom 0

/-- The output buffer `OUT[0 : OUT_LEN]` (R28). -/
def State.output (s : State) : List Byte := (List.range s.outLen).map s.outByte

/-! ### Dictionaries (R12, R41 to R44) -/

/-- `M[k]` of a finite map, or `none` if `k` is no key (R12). -/
def Dict.get? {κ ν : Type} [DecidableEq κ] : List (κ × ν) → κ → Option ν
  | [], _ => none
  | (x, v) :: rest, k => if x = k then some v else Dict.get? rest k

/-- `M[k] <- v`: inserts or overwrites, no key twice, the newest entry first (R12). -/
def Dict.insert {κ ν : Type} [DecidableEq κ] (d : List (κ × ν)) (k : κ) (v : ν) : List (κ × ν) :=
  (k, v) :: d.filter (fun e => e.1 ≠ k)

/-- The 256 seeds `[c] -> c` of `DICTWE` (R43). -/
def seedsEncode : List (Phrase × Nat) :=
  (List.range Config.lzwSeed).map fun c => ([BitVec.ofNat 8 c], c)

/-- The 256 seeds `c -> [c]` of `DICTWD` (R44). -/
def seedsDecode : List (Nat × Phrase) :=
  (List.range Config.lzwSeed).map fun c => (c, [BitVec.ofNat 8 c])

/-! ### What a command owns (R92, R287) -/

/-- The command writes `OUT`: VENC and the six codec commands (R28, R287). -/
def ownsOut (op : Byte) : Bool := op.toNat == 0x01 || (0x04 ≤ op.toNat && op.toNat ≤ 0x09)

/-- The command writes `RES0` to `RES2`: VDEC and MATCH (R287). -/
def ownsResults (op : Byte) : Bool := op.toNat == 0x02 || op.toNat == 0x03

/-! ### What becomes unspecified -/

/-- `OUT_LEN <- 0`, and with it every byte of `OUT` is at or beyond `OUT_LEN` and so unspecified (R28, R49, R287). -/
def State.clearOut (s : State) : State :=
  { s with outLen := 0, outBuf := [], outEpoch := s.freeCount, freeCount := s.freeCount + 1 }

/-- `RES0` to `RES2` become unspecified, within their widths (R21, R33, R287). -/
def State.loseResults (s : State) : State :=
  { s with
    res0 := s.par.trunc (Config.freeNat .res0 s.freeCount)
    res1 := s.par.trunc (Config.freeNat .res1 s.freeCount)
    res2 := Config.freeRes2 s.freeCount
    freeCount := s.freeCount + 1 }

/-- The working state is discarded (R53). -/
def State.discard (s : State) : State :=
  { s with work := Work.unspecified s.freeCount, freeCount := s.freeCount + 1 }

/-- The working state becomes `w`. -/
def State.setWork (s : State) (w : Work) : State := { s with work := w }

/-! ### Command start (R40, R260) -/

/-- The working state a command starts with; a register R40 does not list for it stays unspecified. -/
def startWork (op : Byte) (arg0 : Nat) (w : Work) : Work :=
  match op.toNat with
  | 0x02 => { w with vValue := 0, vCount := 0, vOff := arg0 }
  | 0x03 => { w with bestD := 0, bestK := 0 }
  | 0x04 => { w with pos := 0 }
  | 0x05 => { w with pos := 0 }
  | 0x06 => { w with pos := 0, dict78e := [], cur := [], nextCode := Config.lz78FirstCode }
  | 0x07 => { w with pos := 0, dict78d := [(0, [])], nextCode := Config.lz78FirstCode }
  | 0x08 => { w with pos := 0, dictwe := seedsEncode, cur := [], nextCode := Config.lzwFirstCode }
  | 0x09 => { w with pos := 0, dictwd := seedsDecode, nextCode := Config.lzwFirstCode }
  | _ => w

/-- The opcode is latched, `STATE <- BUSY`, `KIND <- 0` (R40, R260). -/
def State.latch (s : State) (op : Byte) : State := { s with cmd := op, status := .busy, kind := none }

/-- `OUT_LEN <- 0` for the commands that write `OUT` (R28, R40). -/
def State.clearOwned (s : State) : State := if ownsOut s.cmd then s.clearOut else s

/-- Command start, before the command's body (R40, R260). -/
def start (op : Byte) (s : State) : State :=
  (s.latch op).clearOwned.setWork (startWork op s.arg0 s.work)

/-- A command: its start, then its body, as one transition (R74, R260; log entry 1). A `CMD` write while `BUSY` has no
meaning (R74; log entry 11). -/
def issue (op : Byte) (body : State → State) (s : State) : Host.Outcome State Fault Refusal :=
  if s.status = .busy then .refused .hostAccessWhileBusy else .next (body (start op s))

/-! ### Appends to OUT (R65 to R67) -/

/-- `MemWrite(OUT, OUT_LEN, 1, b); OUT_LEN <- OUT_LEN + 1` (R63, R65). -/
def State.append (s : State) (b : Byte) : State :=
  { s with outBuf := s.outBuf.set s.outLen b, outLen := s.outLen + 1 }

/-- `Emit(b)` (R65). -/
def emit (b : Byte) (s : State) : Except ErrKind State :=
  if s.par.outCap = some s.outLen then .error .overflow else .ok (s.append b)

/-- `EmitSeq(bs)` (R66). -/
def emitSeq : List Byte → State → Except ErrKind State
  | [], s => .ok s
  | b :: bs, s =>
    match emit b s with
    | .error k => .error k
    | .ok t => emitSeq bs t

/-- `Emit16(v)`, the more significant byte first (R67). -/
def emit16 (v : Nat) (s : State) : Except ErrKind State := emitSeq (encodeCode (BitVec.ofNat 16 v)) s

/-! ### The end of a command (R53, R261, R287, R293) -/

/-- Success: `STATE <- DONE`; the working state is discarded (R53, R261). -/
def finish (s : State) : State := State.discard { s with status := .done }

/-- `STATE <- ERROR; KIND <- code(K)` (R287). -/
def State.fail (s : State) (k : ErrKind) : State := { s with status := .error, kind := some k }

/-- A failed VDEC or MATCH leaves `RES0` to `RES2` unspecified (R287). -/
def State.loseOwnedResults (s : State) : State := if ownsResults s.cmd then s.loseResults else s

/-- `raise K`: taking the block's one exception, error completion (R287). The return from it is the host's next
command (R293), which `start` begins, or CLR. -/
def raise (k : ErrKind) (s : State) : State :=
  (s.fail k).clearOwned.loseOwnedResults.discard

/-- A part of a body that may raise: its error completes the command from `s`. -/
def orRaise (s : State) (r : Except ErrKind State) (go : State → State) : State :=
  match r with
  | .error k => raise k s
  | .ok t => go t

/-- CLR's body: the block returns to its post-reset status; the bytes of `OUT` are unchanged (R264, R293), and the host
reads none of them, since `OUT_LEN` is 0 (`readOut`; log entry 29). -/
def clear (s : State) : State := { s with outLen := 0, kind := none, status := .idle }

/-! ### Loops (R171, R178, R201, R209, R231, R261) -/

/-- Repeats an iteration while the command runs, at most `n` times. -/
def runLoop (iter : State → State) : Nat → State → State
  | 0, s => s
  | n + 1, s => if s.status = .busy then runLoop iter n (iter s) else s

/-- `IN_LEN > IN_CAP` (R262). -/
def State.inTooLong (s : State) : Bool :=
  match s.par.inCap with
  | none => false
  | some c => decide (c < s.inLen)

/-- The input-length test, which comes before every other test of a command that reads `IN` (R262). -/
def guardLen (iter : State → State) (s : State) : State :=
  if s.inTooLong then raise .illegalOperation s else iter s

/-- The body of a command that works through `IN`: each iteration takes at least one byte, and one more ends it, so
`IN_LEN + 2` iterations are enough (R174, R261). -/
def runStream (iter : State → State) (s : State) : State := runLoop (guardLen iter) (s.inLen + 2) s

/-- A stream unit as an instruction: its effect where a command that consumes it runs (R90; log entry 12). -/
def asUnit (ops : List Byte) (effect : State → State) (s : State) : Host.Outcome State Fault Refusal :=
  if s.status = .busy ∧ s.cmd ∈ ops then .next (effect s) else .refused .unitOutsideItsDecoder

end Sys2Proof.Machine
end

