-- ==== Sys2Proof/Machine/Control.lean ====
section
/-! DEFINITION. CLR and the illegal opcodes (R263, R264). -/

namespace Sys2Proof.Machine

/-- CLR, opcode 0x0F (R264). -/
def execClr (s : State) : Host.Outcome State Fault Refusal := issue 0x0F#8 clear s

/-- An opcode that selects no command: `raise IllegalOperation` (R93, R263). -/
def execIllegal (op : Byte) (s : State) : Host.Outcome State Fault Refusal := issue op (raise .illegalOperation) s

end Sys2Proof.Machine
end

