-- ==== Sys2Proof/Machine/Flags.lean ====
section
/-! DEFINITION. The flag-like state (R51) as the words the host reads: `STATUS`, `ERRKIND` and `RES2`, with every
reserved bit reading 0 (R21). -/

namespace Sys2Proof.Machine

/-- The two bits of `STATUS.STATE` (R23). -/
def Status.code : Status → Nat
  | .idle => 0
  | .busy => 1
  | .done => 2
  | .error => 3

/-- The numeric code of an error kind (R24, R280). -/
def ErrKind.code : ErrKind → Nat
  | .malformedInput => 1
  | .corruptStream => 2
  | .emptyStream => 3
  | .overflow => 4
  | .illegalOperation => 5

/-- `ERRKIND.KIND`, 0 for no error (R24). -/
def kindCode : Option ErrKind → Nat
  | none => 0
  | some k => k.code

/-- `RES2` for an optional next symbol: `256 + c`, or 0 (R32, R153). -/
def res2Of : Option Byte → BitVec 9
  | some c => BitVec.ofNat 9 (256 + c.toNat)
  | none => 0#9

/-- `RES2.PRESENT`, bit 8 (R32). -/
def res2Present (r : BitVec 9) : Bool := r.getLsbD 8

/-- `RES2.SYM`, bits 7:0 (R32). -/
def res2Sym (r : BitVec 9) : Byte := r.setWidth 8

end Sys2Proof.Machine
end

