-- ==== Sys2Proof/Machine/Operands.lean ====
section
/-! DEFINITION. Where a command's operands come from: `ARG0`, the input and its length, the window and lookahead
views (R46, R47), and the stream units at a cursor (R97, R106). -/

namespace Sys2Proof.Machine

/-- The number of candidate distances at cursor `i`, ENTS's `current_window_size`: `min(W, i)` (R38, R151). -/
def State.windowSize (s : State) (i : Nat) : Nat := min s.wsize i

/-- The longest match length at cursor `i`: `min(L, n - i)` (R47, R152). -/
def State.lookaheadSize (s : State) (i : Nat) : Nat := min s.lsize (s.inLen - i)

/-- The window `IN[i - min(W, i) : i]`, a view and not storage (R46). -/
def State.window (s : State) (i : Nat) : List Byte :=
  (List.range' (i - s.windowSize i) (s.windowSize i)).map s.inByte

/-- The lookahead `IN[i : i + min(L, n - i)]`, a view and not storage (R47). -/
def State.lookahead (s : State) (i : Nat) : List Byte :=
  (List.range' i (s.lookaheadSize i)).map s.inByte

/-- The symbol at index `j`, absent at the end of the input (R11, R157). -/
def State.symbolAt (s : State) (j : Nat) : Option Byte := if j < s.inLen then some (s.inByte j) else none

/-- The stream unit of format `f` at index `p` of `IN` (R106). -/
def State.unitAt (s : State) (f : Format) (p : Nat) : Decoded := decode f (s.inFrom p)

/-- `POS` moves past `n` bytes (R34). -/
def State.advance (s : State) (n : Nat) : State := { s with work := { s.work with pos := s.work.pos + n } }

/-- `off` of `VarintDecode` moves past `n` bytes (R132). -/
def State.advanceVarint (s : State) (n : Nat) : State := { s with work := { s.work with vOff := s.work.vOff + n } }

/-- The error kind of a unit that the bytes of its stream do not complete (R132, R186, R210, R238). -/
def errorKind : DecodeError → ErrKind
  | .opcodeMissing => .illegalOperation
  | .varintUnterminated => .malformedInput
  | .markerMissing => .corruptStream
  | .literalMissing => .corruptStream
  | .codeTruncated => .malformedInput

end Sys2Proof.Machine
end

