-- ==== Sys2Proof/Machine/Lz77.lean ====
section
/-! DEFINITION. The sliding-window matcher, MATCH and LZ77C (R150 to R176), and the tokens LZ77D consumes
(R177 to R188). -/

namespace Sys2Proof.Machine

/-! ### The matcher (R150 to R159) -/

/-- `MatchLen`: how far the symbols from `i - d` agree with those from `i`, counting on from `k`, at most `fuel`
more (R152). The source may run into the lookahead (R154). -/
def matchLen (rd : Nat → Byte) (i d : Nat) : Nat → Nat → Nat
  | 0, k => k
  | fuel + 1, k => if rd (i - d + k) = rd (i + k) then matchLen rd i d fuel (k + 1) else k

/-- The loop over `count` ascending distances from `d`: a strictly longer match replaces the best (R152). -/
def scanDistances (rd : Nat → Byte) (i limit : Nat) : Nat → Nat → Nat × Nat → Nat × Nat
  | 0, _, best => best
  | count + 1, d, best =>
    let k := matchLen rd i d limit 0
    scanDistances rd i limit count (d + 1) (if best.2 < k then (d, k) else best)

/-- The nearest longest match at cursor `i`: `(BEST_D, BEST_K)` (R152, R155). -/
def bestMatch (s : State) (i : Nat) : Nat × Nat :=
  scanDistances s.inByte i (s.lookaheadSize i) (s.windowSize i) 1 (0, 0)

/-- The matcher's search at cursor `i` leaves its result in `BEST_D`, `BEST_K` (R39, R152). -/
def runMatcher (i : Nat) (s : State) : State :=
  { s with work := { s.work with bestD := (bestMatch s i).1, bestK := (bestMatch s i).2 } }

/-- MATCH's results: `RES0 <- d; RES1 <- k; RES2 <- ` the next symbol (R153). -/
def matchResults (i : Nat) (s : State) : State :=
  { s with res0 := s.work.bestD, res1 := s.work.bestK, res2 := res2Of (s.symbolAt (i + s.work.bestK)) }

/-- MATCH's body (R153). -/
def matchBody (s : State) : State :=
  if s.inLen ≤ s.arg0 then raise .illegalOperation s
  else finish (matchResults s.arg0 (runMatcher s.arg0 s))

/-- MATCH, opcode 0x03 (R153). -/
def execMatcher (s : State) : Host.Outcome State Fault Refusal := issue 0x03#8 (guardLen matchBody) s

/-! ### LZ77C (R170 to R176) -/

/-- The token registers take `(dist, len, next)` (R38). -/
def State.setToken (s : State) (dist len : Nat) (next : Option Byte) : State :=
  { s with work := { s.work with tDist := dist, tLen := len, tNext := next } }

/-- The matcher's result at `POS` becomes the token (R152, R172). -/
def matchToken (s : State) : State :=
  let t := runMatcher s.work.pos s
  t.setToken t.work.bestD t.work.bestK (t.symbolAt (t.work.pos + t.work.bestK))

/-- How many symbols the token consumes (R173). -/
def tokenSpan (w : Work) : Nat :=
  match w.tNext with
  | some _ => w.tLen + 1
  | none => w.tLen

/-- The token's bytes are appended and `POS` advances past its symbols (R172, R173). -/
def emitToken (s : State) : State :=
  orRaise s (emitSeq (encodeToken s.work.tDist s.work.tLen s.work.tNext) s)
    (fun t => t.advance (tokenSpan t.work))

/-- One iteration of LZ77C's loop (R171, R172). -/
def lz77cIter (s : State) : State :=
  if s.work.pos < s.inLen then emitToken (matchToken s) else finish s

/-- LZ77C, opcode 0x04 (R172). -/
def execLz77c (s : State) : Host.Outcome State Fault Refusal := issue 0x04#8 (runStream lz77cIter) s

/-! ### The tokens of LZ77D (R180 to R187) -/

/-- The copy of `count` bytes from `OUT[src]` on, one byte at a time, so that a byte just appended can be read
again (R73, R184). -/
def copyOut : Nat → Nat → State → Except ErrKind State
  | 0, _, s => .ok s
  | count + 1, src, s =>
    match emit (s.outByte src) s with
    | .error k => .error k
    | .ok t => copyOut count (src + 1) t

/-- `if T_NEXT = Some(c) then Emit(c)` (R185). -/
def emitNext (s : State) : Except ErrKind State :=
  match s.work.tNext with
  | some c => emit c s
  | none => .ok s

/-- The token in `T_DIST`, `T_LEN`, `T_NEXT` is checked and applied (R180, R182 to R185). -/
def applyToken (s : State) : State :=
  if decide (s.work.tDist = 0) != decide (s.work.tLen = 0) then raise .corruptStream s
  else if s.outLen < s.work.tDist then raise .corruptStream s
  else
    orRaise s (copyOut s.work.tLen (s.outLen - s.work.tDist) s)
      (fun t => orRaise t (emitNext t) id)

/-- The token `(dist, len, None)` (R180). -/
def nolitEffect (dist len : Nat) (s : State) : State := applyToken (s.setToken dist len none)

/-- The token `(dist, len, Some lit)` (R180). -/
def litEffect (dist len : Nat) (lit : Byte) (s : State) : State := applyToken (s.setToken dist len (some lit))

/-- A reserved marker raises `CorruptStream` after both varints, before the token is checked (R99, R180, R291). -/
def reservedEffect (_dist _len : Nat) (_mark : Byte) (s : State) : State := raise .corruptStream s

/-- LZ77TOK.NOLIT (R98, R180). -/
def execLz77tokNolit (dist len : Nat) (s : State) : Host.Outcome State Fault Refusal :=
  asUnit [0x05#8] (nolitEffect dist len) s

/-- LZ77TOK.LIT (R98, R180). -/
def execLz77tokLit (dist len : Nat) (lit : Byte) (s : State) : Host.Outcome State Fault Refusal :=
  asUnit [0x05#8] (litEffect dist len lit) s

/-- LZ77TOK.RESERVED (R99, R180). -/
def execLz77tokReserved (dist len : Nat) (mark : Byte) (s : State) : Host.Outcome State Fault Refusal :=
  asUnit [0x05#8] (reservedEffect dist len mark) s

end Sys2Proof.Machine
end

