-- ==== Sys2Proof/Machine/Lz78.lean ====
section
/-! DEFINITION. LZ78C (R200 to R207) and the pairs LZ78D consumes (R208 to R213). -/

namespace Sys2Proof.Machine

/-! ### LZ78C -/

/-- `D.get(p, 0)` (R200). -/
def lz78Index (s : State) (p : Phrase) : Nat := (Dict.get? s.work.dict78e p).getD 0

/-- `DICT78E[p] <- NEXT_CODE; NEXT_CODE <- NEXT_CODE + 1` (R202). -/
def insert78e (p : Phrase) (s : State) : State :=
  { s with work := { s.work with
      dict78e := Dict.insert s.work.dict78e p s.work.nextCode
      nextCode := s.work.nextCode + 1 } }

/-- `CUR <- p` (R35). -/
def State.setCur (s : State) (p : Phrase) : State := { s with work := { s.work with cur := p } }

/-- The candidate is not in the dictionary: emit `(index of CUR, b)`, insert it, empty `CUR` (R202). -/
def emitPair (b : Byte) (s : State) : State :=
  orRaise s (emitSeq (encodePair (lz78Index s s.work.cur) b) s)
    (fun t => (insert78e (t.work.cur ++ [b]) t).setCur [])

/-- One input byte `b` (R202). -/
def lz78cByte (b : Byte) (s : State) : State :=
  if (Dict.get? s.work.dict78e (s.work.cur ++ [b])).isSome then s.setCur (s.work.cur ++ [b])
  else emitPair b s

/-- The end of the input: a non-empty `CUR` is flushed as one more pair, which inserts nothing (R202, R204). -/
def lz78cFlush (s : State) : State :=
  match s.work.cur.getLast? with
  | none => finish s
  | some c => orRaise s (emitSeq (encodePair (lz78Index s s.work.cur.dropLast) c) s) finish

/-- One iteration of LZ78C's loop (R201, R202). -/
def lz78cIter (s : State) : State :=
  if s.work.pos < s.inLen then lz78cByte (s.inByte s.work.pos) (s.advance 1) else lz78cFlush s

/-- LZ78C, opcode 0x06 (R202). -/
def execLz78c (s : State) : Host.Outcome State Fault Refusal := issue 0x06#8 (runStream lz78cIter) s

/-! ### The pairs of LZ78D -/

/-- `DICT78D[NEXT_CODE] <- p; NEXT_CODE <- NEXT_CODE + 1` (R210). -/
def insert78d (p : Phrase) (s : State) : State :=
  { s with work := { s.work with
      dict78d := Dict.insert s.work.dict78d s.work.nextCode p
      nextCode := s.work.nextCode + 1 } }

/-- The pair `(index, lit)`: the indexed phrase and the literal are appended and stored (R210). -/
def pairEffect (index : Nat) (lit : Byte) (s : State) : State :=
  match Dict.get? s.work.dict78d index with
  | none => raise .corruptStream s
  | some p => orRaise s (emitSeq (p ++ [lit]) s) (insert78d (p ++ [lit]))

/-- LZ78PAIR (R101, R210). -/
def execLz78pair (index : Nat) (lit : Byte) (s : State) : Host.Outcome State Fault Refusal :=
  asUnit [0x07#8] (pairEffect index lit) s

end Sys2Proof.Machine
end

