-- ==== Sys2Proof/Machine/Lzw.lean ====
section
/-! DEFINITION. LZWC (R230 to R236) and the code words LZWD consumes (R237 to R244). -/

namespace Sys2Proof.Machine

/-! ### LZWC -/

/-- `DICTWE[CUR]`; defined wherever a run reads it (R233), a free value elsewhere (log entry 21). -/
def curCode (s : State) : Nat :=
  (Dict.get? s.work.dictwe s.work.cur).getD (Config.freeNat .dictMiss s.freeCount)

/-- Inserts `p` under `NEXT_CODE` unless the table is full (R232, R234). -/
def insertWe (p : Phrase) (s : State) : State :=
  if s.work.dictwe.length < Config.maxTable then
    { s with work := { s.work with
        dictwe := Dict.insert s.work.dictwe p s.work.nextCode
        nextCode := s.work.nextCode + 1 } }
  else s

/-- The candidate is not in the dictionary: emit `CUR`'s code, insert if there is room, `CUR <- [b]` (R232). -/
def emitCur (b : Byte) (s : State) : State :=
  orRaise s (emit16 (curCode s) s) (fun t => (insertWe (t.work.cur ++ [b]) t).setCur [b])

/-- One input byte `b` (R232). -/
def lzwcByte (b : Byte) (s : State) : State :=
  if (Dict.get? s.work.dictwe (s.work.cur ++ [b])).isSome then s.setCur (s.work.cur ++ [b])
  else emitCur b s

/-- The end of the input: `if CUR != [] then Emit16(DICTWE[CUR])` (R232). -/
def lzwcLast (s : State) : State :=
  if s.work.cur = [] then finish s else orRaise s (emit16 (curCode s) s) finish

/-- One iteration of LZWC's loop (R231, R232). -/
def lzwcIter (s : State) : State :=
  if s.work.pos < s.inLen then lzwcByte (s.inByte s.work.pos) (s.advance 1) else lzwcLast s

/-- LZWC, opcode 0x08 (R232). -/
def execLzwc (s : State) : Host.Outcome State Fault Refusal := issue 0x08#8 (runStream lzwcIter) s

/-! ### The code words of LZWD -/

/-- `PREV <- p` (R36). -/
def State.setPrev (s : State) (p : Phrase) : State := { s with work := { s.work with prev := p } }

/-- Stores `p` under `NEXT_CODE` unless the table is full (R240, R243). -/
def insertWd (p : Phrase) (s : State) : State :=
  if s.work.dictwd.length < Config.maxTable then
    { s with work := { s.work with
        dictwd := Dict.insert s.work.dictwd s.work.nextCode p
        nextCode := s.work.nextCode + 1 } }
  else s

/-- The first code word must be a known one; its phrase is `PREV` and is appended (R239, R240). -/
def firstCode (k : Nat) (s : State) : State :=
  match Dict.get? s.work.dictwd k with
  | none => raise .corruptStream s
  | some p => orRaise s (emitSeq p s) (fun t => t.setPrev p)

/-- The entry of a later code word: a known phrase, or for `k = NEXT_CODE` the self-referential `PREV ++ [PREV[0]]`
(R240, R241). -/
def codeEntry (k : Nat) (s : State) : Option Phrase :=
  match Dict.get? s.work.dictwd k with
  | some p => some p
  | none => if k = s.work.nextCode then some (s.work.prev ++ s.work.prev.take 1) else none

/-- A later code word: its entry is appended, `PREV ++ [entry[0]]` stored, and `PREV <- entry` (R240). -/
def laterCode (k : Nat) (s : State) : State :=
  match codeEntry k s with
  | none => raise .corruptStream s
  | some e => orRaise s (emitSeq e s) (fun t => (insertWd (t.work.prev ++ e.take 1) t).setPrev e)

/-- The code word `k`, `POS` already past it: the first of the stream ends at offset 2 (R240). -/
def codeEffect (k : CodeWord) (s : State) : State :=
  if s.work.pos = 2 then firstCode k.toNat s else laterCode k.toNat s

/-- LZWCODE (R103, R240). -/
def execLzwcode (k : CodeWord) (s : State) : Host.Outcome State Fault Refusal :=
  asUnit [0x09#8] (codeEffect k) s

end Sys2Proof.Machine
end

