-- ==== Sys2Proof/Machine/Varint.lean ====
section
/-! DEFINITION. VENC, and the varint bytes that VDEC takes one at a time (R130 to R134). -/

namespace Sys2Proof.Machine

/-- VENC's body: `EmitSeq(VarintEncode(ARG0))` (R131). -/
def vencBody (s : State) : State := orRaise s (emitSeq (encodeVarint s.arg0) s) finish

/-- VENC, opcode 0x01 (R131). -/
def execVenc (s : State) : Host.Outcome State Fault Refusal := issue 0x01#8 vencBody s

/-- `v <- v + g * 128^j; j <- j + 1` (R132). -/
def addGroup (g : Group) (s : State) : State :=
  { s with work := { s.work with
      vValue := s.work.vValue + g.toNat * 128 ^ s.work.vCount
      vCount := s.work.vCount + 1 } }

/-- VDEC's end: the value must fit `XW` bits, then `RES0 <- v; RES1 <- o` (R133). -/
def vdecEnd (s : State) : State :=
  if s.par.trunc s.work.vValue = s.work.vValue then
    finish { s with res0 := s.work.vValue, res1 := s.work.vOff }
  else raise .overflow s

/-- A varint byte with bit 7 set adds its group (R132). -/
def contEffect (g : Group) (s : State) : State := addGroup g s

/-- The last byte of a varint adds its group and ends `VarintDecode`; in VDEC that ends the command (R132, R133). In
LZ77D and LZ78D the value stays for the caller (log entry 13). -/
def lastEffect (g : Group) (s : State) : State :=
  if s.cmd = 0x02#8 then vdecEnd (addGroup g s) else addGroup g s

/-- VARINT.CONT, consumed by the three commands that run `VarintDecode` (R132 to R134). -/
def execVarintCont (g : Group) (s : State) : Host.Outcome State Fault Refusal :=
  asUnit [0x02#8, 0x05#8, 0x07#8] (contEffect g) s

/-- VARINT.LAST, consumed by the three commands that run `VarintDecode` (R132 to R134). -/
def execVarintLast (g : Group) (s : State) : Host.Outcome State Fault Refusal :=
  asUnit [0x02#8, 0x05#8, 0x07#8] (lastEffect g) s

end Sys2Proof.Machine
end

