-- ==== Sys2Proof/Machine/Decoders.lean ====
section
/-! DEFINITION. The four commands that consume stream units: VDEC, LZ77D, LZ78D and LZWD (R133, R180, R210, R240).
Each iteration fetches the unit at its cursor, moves the cursor past it, and gives it its effect. -/

namespace Sys2Proof.Machine

/-- What a stream unit does inside the command that consumes it. A command is no stream unit; no format of a stream
decodes to one. -/
def unitEffect (i : Instr) (s : State) : State :=
  match i with
  | .venc | .vdec | .matcher | .lz77c | .lz77d | .lz78c | .lz78d | .lzwc | .lzwd | .clr | .illegal _ => s
  | .varintCont g => contEffect g s
  | .varintLast g => lastEffect g s
  | .lz77tokNolit dist len => nolitEffect dist len s
  | .lz77tokLit dist len lit => litEffect dist len lit s
  | .lz77tokReserved dist len mark => reservedEffect dist len mark s
  | .lz78pair index lit => pairEffect index lit s
  | .lzwcode k => codeEffect k s

/-- One iteration of a decoder's loop over units of format `f` at `POS` (R178, R209). -/
def decoderIter (f : Format) (s : State) : State :=
  if s.work.pos < s.inLen then
    match s.unitAt f s.work.pos with
    | .error e => raise (errorKind e) s
    | .ok i n => unitEffect i (s.advance n)
  else finish s

/-- One iteration of `VarintDecode` in VDEC: the end of the buffer is `MalformedInput` (R132, R133). -/
def vdecIter (s : State) : State :=
  match s.unitAt .varint s.work.vOff with
  | .error e => raise (errorKind e) s
  | .ok i n => unitEffect i (s.advanceVarint n)

/-- One iteration of LZ77D's loop (R178, R180). -/
def lz77dIter (s : State) : State := decoderIter .lz77tok s

/-- One iteration of LZ78D's loop (R209, R210). -/
def lz78dIter (s : State) : State := decoderIter .lz78pair s

/-- One iteration of LZWD's loop; before the first code word the whole stream is tested, parity before emptiness
(R238, R239, R240; log entry 26). -/
def lzwdIter (s : State) : State :=
  if s.work.pos = 0 then
    if s.inLen % 2 = 1 then raise .malformedInput s
    else if s.inLen = 0 then raise .emptyStream s
    else decoderIter .lzwcode s
  else decoderIter .lzwcode s

/-- VDEC, opcode 0x02 (R133). -/
def execVdec (s : State) : Host.Outcome State Fault Refusal := issue 0x02#8 (runStream vdecIter) s

/-- LZ77D, opcode 0x05 (R180). -/
def execLz77d (s : State) : Host.Outcome State Fault Refusal := issue 0x05#8 (runStream lz77dIter) s

/-- LZ78D, opcode 0x07 (R210). -/
def execLz78d (s : State) : Host.Outcome State Fault Refusal := issue 0x07#8 (runStream lz78dIter) s

/-- LZWD, opcode 0x09 (R240). -/
def execLzwd (s : State) : Host.Outcome State Fault Refusal := issue 0x09#8 (runStream lzwdIter) s

end Sys2Proof.Machine
end

