-- ==== Sys2Proof/Machine/Engine.lean ====
section
/-! DEFINITION. The engine while a command runs: one iteration of the running command's loop (R7, R171, R178, R201,
R209, R231). A command's meaning is its start and then these iterations until it ends. -/

namespace Sys2Proof.Machine

/-- One iteration of the command in `CMD`. VENC, MATCH and CLR have no loop over `IN`: their one iteration is the
whole body. -/
def engineIter (s : State) : State :=
  match s.cmd.toNat with
  | 0x01 => vencBody s
  | 0x02 => guardLen vdecIter s
  | 0x03 => guardLen matchBody s
  | 0x04 => guardLen lz77cIter s
  | 0x05 => guardLen lz77dIter s
  | 0x06 => guardLen lz78cIter s
  | 0x07 => guardLen lz78dIter s
  | 0x08 => guardLen lzwcIter s
  | 0x09 => guardLen lzwdIter s
  | 0x0F => clear s
  | _ => raise .illegalOperation s

end Sys2Proof.Machine
end

