-- ==== Sys2Proof/Machine/Dispatch.lean ====
section
/-! DEFINITION. One arm per instruction, each one call of its meaning. -/

namespace Sys2Proof.Machine

def exec (i : Instr) (s : State) : Host.Outcome State Fault Refusal :=
  match i with
  | .venc => Sys2Proof.Machine.execVenc s
  | .vdec => Sys2Proof.Machine.execVdec s
  | .matcher => Sys2Proof.Machine.execMatcher s
  | .lz77c => Sys2Proof.Machine.execLz77c s
  | .lz77d => Sys2Proof.Machine.execLz77d s
  | .lz78c => Sys2Proof.Machine.execLz78c s
  | .lz78d => Sys2Proof.Machine.execLz78d s
  | .lzwc => Sys2Proof.Machine.execLzwc s
  | .lzwd => Sys2Proof.Machine.execLzwd s
  | .clr => Sys2Proof.Machine.execClr s
  | .illegal op => Sys2Proof.Machine.execIllegal op s
  | .varintCont g => Sys2Proof.Machine.execVarintCont g s
  | .varintLast g => Sys2Proof.Machine.execVarintLast g s
  | .lz77tokNolit dist len => Sys2Proof.Machine.execLz77tokNolit dist len s
  | .lz77tokLit dist len lit => Sys2Proof.Machine.execLz77tokLit dist len lit s
  | .lz77tokReserved dist len mark => Sys2Proof.Machine.execLz77tokReserved dist len mark s
  | .lz78pair index lit => Sys2Proof.Machine.execLz78pair index lit s
  | .lzwcode k => Sys2Proof.Machine.execLzwcode k s

end Sys2Proof.Machine
end

