-- ==== Sys2Proof/Machine/HostPort.lean ====
section
/-! DEFINITION. The host's side: the register map (R21), its access rules (R22, R33), the two buffers (R48, R49), the
move of `OUT` to `IN` (R76, R325), the reset input (R320), and how a stream unit or a `CMD` write is placed where the
next step fetches it. -/

namespace Sys2Proof.Machine

/-! ### The register block (R21) -/

/-- The registers of the map. -/
inductive Reg where
  | cmd | status | errkind | wsize | lsize | inLen | outLen | arg0 | res0 | res1 | res2
  deriving DecidableEq, Repr

/-- What stands at a byte offset. -/
inductive RegSlot where
  | reg (r : Reg)
  /-- An offset of 0x2C or more. -/
  | reserved
  /-- An offset below 0x2C at which no register begins (log entry 18). -/
  | unmapped
  deriving DecidableEq, Repr

/-- The register map (R21). R21's offsets assume `XW = 32` and it gives none for another width; that the same offsets
hold for every `XW` is the model's choice (log entry 34). -/
def regSlot (off : Nat) : RegSlot :=
  match off with
  | 0x00 => .reg .cmd
  | 0x04 => .reg .status
  | 0x08 => .reg .errkind
  | 0x0C => .reg .wsize
  | 0x10 => .reg .lsize
  | 0x14 => .reg .inLen
  | 0x18 => .reg .outLen
  | 0x1C => .reg .arg0
  | 0x20 => .reg .res0
  | 0x24 => .reg .res1
  | 0x28 => .reg .res2
  | n => if 0x2C ≤ n then .reserved else .unmapped

/-- What a host read of a register returns; every bit outside its fields reads 0 (R21). -/
def readReg (s : State) : Reg → Nat
  | .cmd => s.cmd.toNat
  | .status => s.status.code
  | .errkind => kindCode s.kind
  | .wsize => s.wsize
  | .lsize => s.lsize
  | .inLen => s.inLen
  | .outLen => s.outLen
  | .arg0 => s.arg0
  | .res0 => s.res0
  | .res1 => s.res1
  | .res2 => s.res2.toNat

/-- A host write of `v` to a register: `CMD` takes bits 7:0 and starts the command they select; a read-only register
ignores it; the others take the `XW` bits (R21, R22, R33, R260; log entry 16). -/
def writeReg (s : State) (r : Reg) (v : Nat) : Host.Outcome State Fault Refusal :=
  match r with
  | .cmd => exec (decodeCommand (BitVec.ofNat 8 v)) s
  | .wsize => .next { s with wsize := s.par.trunc v }
  | .lsize => .next { s with lsize := s.par.trunc v }
  | .inLen => .next { s with inLen := s.par.trunc v }
  | .arg0 => .next { s with arg0 := s.par.trunc v }
  | .status | .errkind | .outLen | .res0 | .res1 | .res2 => .next s

/-! ### The buffers (R48, R49) -/

/-- Index `a` is inside a buffer of capacity `cap`. -/
def inside (cap : Option Nat) (a : Nat) : Bool :=
  match cap with
  | none => true
  | some c => decide (a < c)

/-- The host reads `OUT[a]`: the byte there below `OUT_LEN`; at and beyond it a fresh free value, whatever the memory
still holds (R49, U7; log entries 8 and 29). -/
def readOut (a : Nat) (s : State) : State :=
  if a < s.outLen then { s with rdata := (s.outByte a).toNat }
  else { s with rdata := (Config.freeByte .output s.freeCount a).toNat, freeCount := s.freeCount + 1 }

/-- The host moves `OUT[0 : OUT_LEN]` into `IN` and writes `OUT_LEN` to `IN_LEN` (R76, R325). -/
def moveOutToIn (s : State) : State :=
  { s with inBuf := s.inBuf.setSeq 0 s.output, inLen := s.outLen }

/-- The host puts `bs` into `IN` from index 0 and their number into `IN_LEN` (R108, R323). -/
def loadInput (bs : List Byte) (s : State) : State :=
  { s with inBuf := s.inBuf.setSeq 0 bs, inLen := bs.length }

/-- One move of the host, made while the engine is not `BUSY` (R74). -/
def hostMove (op : HostOp) (s : State) : Host.Outcome State Fault Refusal :=
  match op with
  | .writeReg off v =>
    match regSlot off with
    | .reg r => writeReg s r v
    | .reserved => .next s
    | .unmapped => .refused .noRegisterAtOffset
  | .readReg off =>
    match regSlot off with
    | .reg r => .next { s with rdata := readReg s r }
    | .reserved => .next { s with rdata := 0 }
    | .unmapped => .refused .noRegisterAtOffset
  | .writeIn a b =>
    if inside s.par.inCap a then .next { s with inBuf := s.inBuf.set a b } else .fault .inIndexOutOfRange
  | .readOut a =>
    if inside s.par.outCap a then .next (readOut a s) else .fault .outIndexOutOfRange
  | .copyOutToIn =>
    if s.outLen = 0 ∨ inside s.par.inCap (s.outLen - 1) then .next (moveOutToIn s) else .fault .inIndexOutOfRange
  | .reset => .next { State.resetFrom s.par s.freeCount with host := s.host, rdata := s.rdata }

/-! ### Placing an instruction where the next step fetches it (log entry 15) -/

/-- The command whose decoder fetches units of format `f`. -/
def unitCommand : Format → Byte
  | .cmd8 => 0x00#8
  | .varint => 0x02#8
  | .lz77tok => 0x05#8
  | .lz78pair => 0x07#8
  | .lzwcode => 0x09#8

/-- A command word becomes the host's next move, a write to `CMD`, the engine not being `BUSY`. -/
def placeCommand (w : Nat) (s : State) : State :=
  { s with
    status := if s.status = .busy then .idle else s.status
    host := .writeReg 0x00 (w % 256) :: s.host }

/-- A stream unit becomes the first one of `IN`, the command that consumes it just started. (VDEC starts at the offset
in `ARG0`, which is 0 for it.) -/
def placeUnit (f : Format) (bs : List Byte) (s : State) : State :=
  start (unitCommand f) (loadInput bs s)

/-- The length of the unit at the head of `bs`, so that the padding behind a shorter unit is left out. -/
def unitSize (f : Format) (bs : List Byte) : Nat :=
  match decode f bs with
  | .ok _ n => n
  | .error _ => bs.length

/-- A table word placed where the next step fetches its instruction. -/
def placeWord (s : State) (nbits w : Nat) : State :=
  match tableFormat nbits w with
  | .cmd8 => placeCommand w s
  | .varint => placeUnit .varint ((tableBytes nbits w).take 1) { s with arg0 := 0 }
  | .lz77tok => placeUnit .lz77tok ((tableBytes nbits w).take (unitSize .lz77tok (tableBytes nbits w))) s
  | .lz78pair => placeUnit .lz78pair ((tableBytes nbits w).take (unitSize .lz78pair (tableBytes nbits w))) s
  | .lzwcode => placeUnit .lzwcode ((tableBytes nbits w).take 2) s

end Sys2Proof.Machine
end

