-- ==== Sys2Proof/Machine/Step.lean ====
section
/-! DEFINITION. One step. While a command runs the engine takes one iteration of it and the host waits (R74, R324);
otherwise the host makes its next move, and with none left the block idles and keeps its state (R300, R321). -/

namespace Sys2Proof.Machine

/-- One step of the machine. A `CMD` write runs its command as one transition (R74, R260). -/
def step (s : State) : Host.Outcome State Fault Refusal :=
  if s.status = .busy then .next (engineIter s)
  else
    match s.host with
    | [] => .next s
    | op :: rest => hostMove op { s with host := rest }

/-- `s` with the instruction of a table word stored where `step` fetches its next instruction (log entry 15). -/
def State.withFetchWord (s : State) (nbits w : Nat) : State := placeWord s nbits w

end Sys2Proof.Machine
end

