-- ==== Sys2Proof/Safety.lean ====
section
/-! DEFINITION. The terms claims are stated in: what a command leaves unchanged, how it ends, the declarative match of
R155, the algorithms of R177, R200, R208, R230 and R237 over plain lists, and the invariants of a safe run. -/

namespace Sys2Proof.Machine

/-! ### Hypotheses on a state -/

/-- `IN_LEN <= IN_CAP` (R27, R262). -/
abbrev State.inputOk (s : State) : Prop := s.inTooLong = false

/-- `OUT_CAP >= n`. -/
def State.roomFor (s : State) (n : Nat) : Prop := ∀ c, s.par.outCap = some c → n ≤ c

/-- The engine runs the command with opcode `op`. -/
abbrev State.running (s : State) (op : Byte) : Prop := s.status = .busy ∧ s.cmd = op

/-! ### What a step leaves unchanged -/

/-- What no command changes: the parameters, the host's registers, every byte of `IN`, and the host's own side
(R48, R53, R287). -/
structure KeepsHostSide (s t : State) : Prop where
  par : t.par = s.par
  wsize : t.wsize = s.wsize
  lsize : t.lsize = s.lsize
  inLen : t.inLen = s.inLen
  arg0 : t.arg0 = s.arg0
  host : t.host = s.host
  rdata : t.rdata = s.rdata
  inByte : ∀ a, t.inByte a = s.inByte a

/-- `OUT` and `OUT_LEN` are unchanged. -/
structure KeepsOut (s t : State) : Prop where
  outLen : t.outLen = s.outLen
  outByte : ∀ a, t.outByte a = s.outByte a

/-- `RES0` to `RES2` are unchanged. -/
structure KeepsResults (s t : State) : Prop where
  res0 : t.res0 = s.res0
  res1 : t.res1 = s.res1
  res2 : t.res2 = s.res2

/-- The command, status and error registers are unchanged. -/
structure KeepsControl (s t : State) : Prop where
  cmd : t.cmd = s.cmd
  status : t.status = s.status
  kind : t.kind = s.kind

/-- The dictionaries, phrase registers and code counter are unchanged. -/
structure KeepsDictionaries (s t : State) : Prop where
  dict78e : t.work.dict78e = s.work.dict78e
  dict78d : t.work.dict78d = s.work.dict78d
  dictwe : t.work.dictwe = s.work.dictwe
  dictwd : t.work.dictwd = s.work.dictwd
  cur : t.work.cur = s.work.cur
  prev : t.work.prev = s.work.prev
  nextCode : t.work.nextCode = s.work.nextCode

/-! ### How a command ends (R261) -/

/-- Issuing `i` succeeds: `CMD` holds its opcode, `STATE = DONE`, `KIND = 0`, and the end state meets `P`. -/
def Succeeds (i : Instr) (s : State) (P : State → Prop) : Prop :=
  ∃ t, exec i s = .next t ∧ t.cmd = opcode i ∧ t.status = .done ∧ t.kind = none ∧ KeepsHostSide s t ∧ P t

/-- Issuing `i` fails with `k`: `CMD` holds its opcode, `STATE = ERROR`, `KIND = code(k)`, and the end state meets
`P`. -/
def FailsWith (i : Instr) (k : ErrKind) (s : State) (P : State → Prop) : Prop :=
  ∃ t, exec i s = .next t ∧ t.cmd = opcode i ∧ t.status = .error ∧ t.kind = some k ∧ KeepsHostSide s t ∧ P t

/-- Issuing `i` writes exactly `y` where `OUT` has room for it, and otherwise ends in `Overflow` with the output withdrawn
(R65, R287); `RES0` to `RES2` are unchanged either way. -/
def Writes (i : Instr) (s : State) (y : List Byte) : Prop :=
  (s.roomFor y.length → Succeeds i s fun t => t.output = y ∧ KeepsResults s t) ∧
  (∀ c, s.par.outCap = some c → c < y.length → FailsWith i .overflow s fun t => t.outLen = 0 ∧ KeepsResults s t)

/-- The commands that write `OUT` (R28). -/
def outCommands : List Instr := [.venc, .lz77c, .lz77d, .lz78c, .lz78d, .lzwc, .lzwd]

/-- The commands that read `IN` (R262). -/
def inCommands : List Instr := [.vdec, .matcher, .lz77c, .lz77d, .lz78c, .lz78d, .lzwc, .lzwd]

/-- The ten commands (R92). -/
def commands : List Instr := [.venc, .vdec, .matcher, .lz77c, .lz77d, .lz78c, .lz78d, .lzwc, .lzwd, .clr]

/-- The instructions a `CMD` write can issue: the ten commands and the illegal ones (R92, R93). -/
def IsIssued (i : Instr) : Prop := i.format = .cmd8 ∧ i.wellFormed

/-- The opcodes of the commands that consume a stream unit (R133, R134, R180, R210, R240); none for a command. -/
def consumers : Instr → List Byte
  | .varintCont _ | .varintLast _ => [0x02#8, 0x05#8, 0x07#8]
  | .lz77tokNolit _ _ | .lz77tokLit _ _ _ | .lz77tokReserved _ _ _ => [0x05#8]
  | .lz78pair _ _ => [0x07#8]
  | .lzwcode _ => [0x09#8]
  | .venc | .vdec | .matcher | .lz77c | .lz77d | .lz78c | .lz78d | .lzwc | .lzwd | .clr | .illegal _ => []

/-- The error completion of a running decoder that writes `OUT`: `STATE = ERROR`, `KIND = code(k)`, the output withdrawn,
and nothing of the host's or of `RES0` to `RES2` changed (R187, R287). -/
def Withdrawn (k : ErrKind) (s t : State) : Prop :=
  t.cmd = s.cmd ∧ t.status = .error ∧ t.kind = some k ∧ t.outLen = 0 ∧ KeepsHostSide s t ∧ KeepsResults s t

/-- A stream unit raises `k`. -/
def UnitRaises (i : Instr) (k : ErrKind) (s : State) : Prop := ∃ t, exec i s = .next t ∧ Withdrawn k s t

/-- A step of a running decoder that writes `OUT` raises `k`. -/
def StepRaises (k : ErrKind) (s : State) : Prop := ∃ t, step s = .next t ∧ Withdrawn k s t

/-- Which kinds a command can raise (R286). -/
def raisable : Instr → List ErrKind
  | .venc => [.overflow]
  | .vdec => [.malformedInput, .overflow, .illegalOperation]
  | .matcher => [.illegalOperation]
  | .lz77c => [.overflow, .illegalOperation]
  | .lz77d => [.malformedInput, .corruptStream, .overflow, .illegalOperation]
  | .lz78c => [.overflow, .illegalOperation]
  | .lz78d => [.malformedInput, .corruptStream, .overflow, .illegalOperation]
  | .lzwc => [.overflow, .illegalOperation]
  | .lzwd => [.malformedInput, .corruptStream, .emptyStream, .overflow, .illegalOperation]
  | .clr => []
  | .illegal _ => [.illegalOperation]
  | .varintCont _ | .varintLast _ | .lz77tokNolit _ _ | .lz77tokLit _ _ _ | .lz77tokReserved _ _ _
  | .lz78pair _ _ | .lzwcode _ => []

/-! ### The match, stated without a search order (R155) -/

/-- `k` is the match length at distance `d`: the symbols agree up to `k`, and not further unless the limit is reached
(R152, R154). -/
def IsMatchLen (s : State) (i d k : Nat) : Prop :=
  k ≤ s.lookaheadSize i ∧ (∀ j, j < k → s.inByte (i - d + j) = s.inByte (i + j)) ∧
    (k < s.lookaheadSize i → s.inByte (i - d + k) ≠ s.inByte (i + k))

/-- `(d, k)` is the nearest of the longest matches at cursor `i`, and `(0, 0)` where nothing matches (R155, R156). -/
def IsBestMatch (s : State) (i d k : Nat) : Prop :=
  (∀ d' k', 1 ≤ d' → d' ≤ s.windowSize i → IsMatchLen s i d' k' → k' ≤ k) ∧
    (k = 0 → d = 0) ∧
    (0 < k → 1 ≤ d ∧ d ≤ s.windowSize i ∧ IsMatchLen s i d k ∧
      ∀ d', 1 ≤ d' → d' < d → ¬ IsMatchLen s i d' k)

/-- The token stream of R170 from cursor `i` on: at each cursor the best match and the symbol behind it, and the
cursor moves past both (R173). -/
inductive GreedyTokens (s : State) : Nat → List Byte → Prop where
  | stop : GreedyTokens s s.inLen []
  | token (i d k : Nat) (rest : List Byte) (inside : i < s.inLen) (best : IsBestMatch s i d k)
      (more : i + k < s.inLen) (tail : GreedyTokens s (i + k + 1) rest) :
      GreedyTokens s i (encodeToken d k (some (s.inByte (i + k))) ++ rest)
  | last (i d k : Nat) (rest : List Byte) (inside : i < s.inLen) (best : IsBestMatch s i d k)
      (ends : i + k = s.inLen) (tail : GreedyTokens s (i + k) rest) :
      GreedyTokens s i (encodeToken d k none ++ rest)

/-- Output bytes that are enough for LZ78C on `n` symbols (R206). -/
def lz78Bound (n : Nat) : Nat := n * (1 + (encodeVarint n).length)

/-! ### The algorithms over plain lists -/

/-- The bytes a token adds to a history: the `d`-byte block before its end repeated cyclically to length `l`, the
closed form of the copy (R184). -/
def cyclicCopy (history : List Byte) (d l : Nat) : List Byte :=
  (List.range l).map fun j => history.getD (history.length - d + j % d) 0#8

/-- LZ77 decoding of a stream after a history, giving the whole output (R177, R182, R183, R185). -/
inductive Lz77Decodes : List Byte → List Byte → List Byte → Prop where
  | stop (history : List Byte) : Lz77Decodes [] history history
  | lit (bs history y : List Byte) (d l n : Nat) (c : Byte) (unit : decodeToken bs = .ok (.lz77tokLit d l c) n)
      (shape : d = 0 ↔ l = 0) (known : d ≤ history.length)
      (tail : Lz77Decodes (bs.drop n) (history ++ cyclicCopy history d l ++ [c]) y) : Lz77Decodes bs history y
  | nolit (bs history y : List Byte) (d l n : Nat) (unit : decodeToken bs = .ok (.lz77tokNolit d l) n)
      (shape : d = 0 ↔ l = 0) (known : d ≤ history.length)
      (tail : Lz77Decodes (bs.drop n) (history ++ cyclicCopy history d l) y) : Lz77Decodes bs history y

/-- The LZ78 code of a phrase when `ps` lists the dictionary's phrases in the order of their codes 1, 2, …; the empty
phrase has index 0 (R41, R200). -/
def lz78Code (ps : List Phrase) (p : Phrase) : Nat := if p ∈ ps then ps.idxOf p + 1 else 0

/-- LZ78 encoding with the phrases `ps` and the current phrase `cur`, the end-of-input flush included (R200, R204). -/
def lz78Encode (ps : List Phrase) (cur : Phrase) : List Byte → List Byte
  | [] =>
    match cur.getLast? with
    | none => []
    | some c => encodePair (lz78Code ps cur.dropLast) c
  | b :: bs =>
    if cur ++ [b] ∈ ps then lz78Encode ps (cur ++ [b]) bs
    else encodePair (lz78Code ps cur) b ++ lz78Encode (ps ++ [cur ++ [b]]) [] bs

/-- LZ78 decoding of a stream when `ps` lists the phrases of codes 0, 1, …, giving the output (R208). -/
inductive Lz78Decodes : List Byte → List Phrase → List Byte → Prop where
  | stop (ps : List Phrase) : Lz78Decodes [] ps []
  | pair (bs y : List Byte) (ps : List Phrase) (index n : Nat) (c : Byte) (p : Phrase)
      (unit : decodePair bs = .ok (.lz78pair index c) n) (known : ps[index]? = some p)
      (tail : Lz78Decodes (bs.drop n) (ps ++ [p ++ [c]]) y) : Lz78Decodes bs ps (p ++ [c] ++ y)

/-- The 256 single-byte phrases in the order of their codes (R43, R44). -/
def singleBytes : List Phrase := (List.range 256).map fun c => [BitVec.ofNat 8 c]

/-- LZW encoding into code numbers when `ps` lists the phrases in the order of their codes (R230). -/
def lzwEncode (ps : List Phrase) (cur : Phrase) : List Byte → List Nat
  | [] => if cur = [] then [] else [ps.idxOf cur]
  | b :: bs =>
    if cur ++ [b] ∈ ps then lzwEncode ps (cur ++ [b]) bs
    else ps.idxOf cur :: lzwEncode (if ps.length < 4096 then ps ++ [cur ++ [b]] else ps) [b] bs

/-- Code numbers as big-endian 16-bit words (R103). -/
def codeBytes (ks : List Nat) : List Byte := ks.flatMap fun k => encodeCode (BitVec.ofNat 16 k)

/-- LZW decoding of the code words after the first, with the phrases `ps` and the previous entry `prev`, giving the
rest of the output (R237, R241). -/
inductive LzwDecodes : List Byte → List Phrase → Phrase → List Byte → Prop where
  | stop (ps : List Phrase) (prev : Phrase) : LzwDecodes [] ps prev []
  | code (hi lo : Byte) (bs y : List Byte) (ps : List Phrase) (prev entry : Phrase)
      (found : ps[(codeOfBytes hi lo).toNat]? = some entry ∨
        ((codeOfBytes hi lo).toNat = ps.length ∧ entry = prev ++ prev.take 1))
      (tail : LzwDecodes bs (if ps.length < 4096 then ps ++ [prev ++ entry.take 1] else ps) entry y) :
      LzwDecodes (hi :: lo :: bs) ps prev (entry ++ y)

/-! ### Invariants of a safe run -/

/-- The invariant of the host-visible state: admitted parameters, both memories in canonical form and inside their
capacities, every byte below `OUT_LEN` written, `KIND` set exactly in `ERROR` (R24), every numeric register within
`XW` bits (R21), and `POS` within the input while a command that uses it runs (R34). -/
structure Inv (s : State) : Prop where
  params : s.par.wf
  inCanonical : Mem.wf s.inBuf
  outCanonical : Mem.wf s.outBuf
  inInside : ∀ e ∈ s.inBuf, inside s.par.inCap e.1 = true
  outInside : ∀ e ∈ s.outBuf, inside s.par.outCap e.1 = true
  outRoom : s.roomFor s.outLen
  outWritten : ∀ a, a < s.outLen → (s.outBuf.get? a).isSome = true
  kindIff : s.kind ≠ none ↔ s.status = .error
  wsizeFits : s.par.fits s.wsize
  lsizeFits : s.par.fits s.lsize
  inLenFits : s.par.fits s.inLen
  arg0Fits : s.par.fits s.arg0
  res0Fits : s.par.fits s.res0
  res1Fits : s.par.fits s.res1
  posInside : s.status = .busy → 4 ≤ s.cmd.toNat → s.cmd.toNat ≤ 9 → s.work.pos ≤ s.inLen

/-- No key twice and no value twice. -/
def OneEntryEach {κ ν : Type} (d : List (κ × ν)) : Prop := (d.map (·.1)).Nodup ∧ (d.map (·.2)).Nodup

/-- The invariant of the dictionaries while a command that uses one runs (R35, R37, R41 to R44, R246). The encoders':
phrases and codes pairwise different, as many codes as there are numbers from the first code up to `NEXT_CODE`, all of
them in that range, and `CUR` empty or a key. The decoders': the known codes are the numbers below `NEXT_CODE`, one
entry each. The seeds stay, and the LZW tables hold 256 to 4096 entries. -/
structure DictInv (s : State) : Prop where
  lz78c : s.running 0x06#8 →
    s.work.dict78e.length + 1 = s.work.nextCode ∧ OneEntryEach s.work.dict78e ∧
    (∀ e ∈ s.work.dict78e, e.1 ≠ [] ∧ 1 ≤ e.2 ∧ e.2 < s.work.nextCode) ∧
    (s.work.cur = [] ∨ (Dict.get? s.work.dict78e s.work.cur).isSome = true)
  lz78d : s.running 0x07#8 →
    s.work.dict78d.length = s.work.nextCode ∧ 1 ≤ s.work.nextCode ∧ Dict.get? s.work.dict78d 0 = some [] ∧
    (∀ k, (Dict.get? s.work.dict78d k).isSome = true ↔ k < s.work.nextCode)
  lzwc : s.running 0x08#8 →
    s.work.dictwe.length = s.work.nextCode ∧ 256 ≤ s.work.nextCode ∧ s.work.nextCode ≤ 4096 ∧
    OneEntryEach s.work.dictwe ∧ (∀ e ∈ s.work.dictwe, e.1 ≠ [] ∧ e.2 < s.work.nextCode) ∧
    (∀ b : Byte, Dict.get? s.work.dictwe [b] = some b.toNat) ∧
    (s.work.cur = [] ∨ (Dict.get? s.work.dictwe s.work.cur).isSome = true)
  lzwd : s.running 0x09#8 →
    s.work.dictwd.length = s.work.nextCode ∧ 256 ≤ s.work.nextCode ∧ s.work.nextCode ≤ 4096 ∧
    (∀ b : Byte, Dict.get? s.work.dictwd b.toNat = some [b]) ∧
    (∀ k, (Dict.get? s.work.dictwd k).isSome = true ↔ k < s.work.nextCode)

/-- Two states that agree on the inputs a command has: the parameters, `IN`, and the host's registers (R15, R265). -/
structure SameInputs (s t : State) : Prop where
  par : t.par = s.par
  wsize : t.wsize = s.wsize
  lsize : t.lsize = s.lsize
  inLen : t.inLen = s.inLen
  arg0 : t.arg0 = s.arg0
  inByte : ∀ a, a < s.inLen → t.inByte a = s.inByte a

end Sys2Proof.Machine
end

