-- ==== Sys2Proof/Certificates/Slice0/Obligations.lean ====
section
/-! DEFINITION. The statements for the provers. Each docstring names the rules it formalises. -/

open Sys2Proof Sys2Proof.Machine

/-! ### Encodings -/

/-- R92, R107: each opcode selects the command the map gives it. -/
def Obligations.AssignedOpcodesSelectTheirCommands : Prop :=
  decodeCommand 0x01#8 = .venc ∧ decodeCommand 0x02#8 = .vdec ∧ decodeCommand 0x03#8 = .matcher ∧
  decodeCommand 0x04#8 = .lz77c ∧ decodeCommand 0x05#8 = .lz77d ∧ decodeCommand 0x06#8 = .lz78c ∧
  decodeCommand 0x07#8 = .lz78d ∧ decodeCommand 0x08#8 = .lzwc ∧ decodeCommand 0x09#8 = .lzwd ∧
  decodeCommand 0x0F#8 = .clr

/-- R94 to R103: units written out byte by byte decode to what they stand for, and cut ones are rejected by name. -/
def Obligations.WrittenOutUnitsDecode : Prop :=
  decode .varint [0xAC#8] = .ok (.varintCont 0x2C#7) 1 ∧
  decode .varint [0x02#8] = .ok (.varintLast 0x02#7) 1 ∧
  decodeVarint [0xAC#8, 0x02#8, 0x42#8] = some (300, 2) ∧
  decodeVarint [0x81#8, 0x80#8, 0x00#8] = some (1, 3) ∧
  decode .lz77tok [0x02#8, 0x05#8, 0x00#8] = .ok (.lz77tokNolit 2 5) 3 ∧
  decode .lz77tok [0x01#8, 0xFF#8, 0x01#8, 0x01#8, 0x41#8] = .ok (.lz77tokLit 1 255 0x41#8) 5 ∧
  decode .lz77tok [0x00#8, 0x00#8, 0x02#8] = .ok (.lz77tokReserved 0 0 0x02#8) 3 ∧
  decode .lz77tok [0x00#8, 0x00#8] = .error .markerMissing ∧
  decode .lz78pair [0x03#8, 0x41#8] = .ok (.lz78pair 3 0x41#8) 2 ∧
  decode .lz78pair [0x80#8] = .error .varintUnterminated ∧
  decode .lzwcode [0x01#8, 0x02#8] = .ok (.lzwcode 258#16) 2

/-- R91, R94, R98, R101, R103: decoding what the encoder writes gives the instruction back, whatever follows. -/
def Obligations.DecodeOfEncodeIsIdentity : Prop :=
  ∀ (i : Instr) (rest : List Byte), i.wellFormed →
    decode i.format (encode i ++ rest) = .ok i (encode i).length

/-- R97, R106: a decoded unit is well formed, of its format, takes at least one byte and only bytes that are there, and
is found by those bytes alone. -/
def Obligations.DecodedUnitIsSelfDelimiting : Prop :=
  ∀ (f : Format) (bs : List Byte) (i : Instr) (n : Nat), decode f bs = .ok i n →
    i.format = f ∧ i.wellFormed ∧ 1 ≤ n ∧ n ≤ bs.length ∧
      ∀ rest, decode f (bs.take n ++ rest) = .ok i n

/-- R130: one group per byte, the continuation bit on all but the last. -/
def Obligations.VarintEncodesSevenBitGroups : Prop :=
  ∀ n, encodeVarint n =
    if n / 128 ≠ 0 then BitVec.ofNat 8 (128 + n % 128) :: encodeVarint (n / 128)
    else [BitVec.ofNat 8 (n % 128)]

/-- R136: the length law and its thresholds. -/
def Obligations.VarintLengthCountsDigits : Prop :=
  ∀ n, (n ≤ 127 → (encodeVarint n).length = 1) ∧
    (127 < n → (encodeVarint n).length = 1 + (encodeVarint (n / 128)).length) ∧
    ∀ m, 1 ≤ m → ((encodeVarint n).length ≤ m ↔ n < 128 ^ m)

/-- R95: the value of a varint is the sum of its groups, each times its power of 128. -/
def Obligations.VarintValueIsDigitSum : Prop :=
  ∀ (xs rest : List Byte) (y : Byte), (∀ x ∈ xs, 128 ≤ x.toNat) → y.toNat < 128 →
    decodeVarint (xs ++ y :: rest) =
      some (((xs ++ [y]).zipIdx.map fun p => (p.1.toNat % 128) * 128 ^ p.2).sum, xs.length + 1)

/-- R137: no varint, canonical or not, is a proper prefix of another. -/
def Obligations.VarintsArePrefixFree : Prop :=
  ∀ (p q : List Byte) (v w : Nat), decodeVarint p = some (v, p.length) → decodeVarint q = some (w, q.length) →
    p <+: q → p = q

/-- R135: the round-trip law, of the decoder and of the VDEC command. -/
def Obligations.VarintRoundTrip : Prop :=
  ∀ (s : State) (n : Nat) (rest : List Byte), s.inFrom s.arg0 = encodeVarint n ++ rest →
    decodeVarint (s.inFrom s.arg0) = some (n, (encodeVarint n).length) ∧
    (s.status ≠ .busy → s.inputOk → s.par.fits n →
      Succeeds .vdec s fun t => t.res0 = n ∧ t.res1 = s.arg0 + (encodeVarint n).length)

/-! ### The varint and matcher commands -/

/-- R131: VENC, with its one error. -/
def Obligations.VencAppendsTheVarint : Prop :=
  ∀ s : State, s.status ≠ .busy →
    (s.roomFor (encodeVarint s.arg0).length →
      Succeeds .venc s fun t => t.output = encodeVarint s.arg0 ∧ KeepsResults s t) ∧
    (∀ c, s.par.outCap = some c → c < (encodeVarint s.arg0).length →
      FailsWith .venc .overflow s fun t => t.outLen = 0 ∧ KeepsResults s t)

/-- R132, R133: VDEC, with its three errors. -/
def Obligations.VdecReturnsValueAndOffset : Prop :=
  ∀ s : State, s.status ≠ .busy →
    (s.inTooLong = true → FailsWith .vdec .illegalOperation s (KeepsOut s)) ∧
    (s.inputOk → decodeVarint (s.inFrom s.arg0) = none → FailsWith .vdec .malformedInput s (KeepsOut s)) ∧
    (∀ v k, s.inputOk → decodeVarint (s.inFrom s.arg0) = some (v, k) →
      (¬ s.par.fits v → FailsWith .vdec .overflow s (KeepsOut s)) ∧
      (s.par.fits v → Succeeds .vdec s fun t =>
        t.res0 = v ∧ t.res1 = s.arg0 + k ∧ t.res2 = s.res2 ∧ KeepsOut s t))

/-- R153, R155, R156, R157: MATCH returns the nearest longest match and the symbol behind it, with its errors. -/
def Obligations.MatchReturnsNearestLongest : Prop :=
  ∀ s : State, s.status ≠ .busy →
    (s.inTooLong = true → FailsWith .matcher .illegalOperation s (KeepsOut s)) ∧
    (s.inputOk → s.inLen ≤ s.arg0 → FailsWith .matcher .illegalOperation s (KeepsOut s)) ∧
    (s.inputOk → s.arg0 < s.inLen → Succeeds .matcher s fun t =>
      IsBestMatch s s.arg0 t.res0 t.res1 ∧
      (s.arg0 + t.res1 < s.inLen → t.res2.toNat = 256 + (s.inByte (s.arg0 + t.res1)).toNat) ∧
      (s.arg0 + t.res1 = s.inLen → t.res2.toNat = 0) ∧ KeepsOut s t)

/-- R158: the invariants of the matcher's result, its maximality, and R156's no-match case. -/
def Obligations.MatcherResultInvariants : Prop :=
  ∀ (s : State) (i d k : Nat), i < s.inLen → bestMatch s i = (d, k) →
    (d = 0 ↔ k = 0) ∧ (0 < d → 1 ≤ d ∧ d ≤ min s.wsize i) ∧ k ≤ min s.lsize (s.inLen - i) ∧
    (∀ j, j < k → s.inByte (i - d + j) = s.inByte (i + j)) ∧
    (s.symbolAt (i + k) = none ↔ i + k = s.inLen) ∧
    (∀ c, s.symbolAt (i + k) = some c → c = s.inByte (i + k)) ∧
    (∀ d' k', 1 ≤ d' → d' ≤ min s.wsize i → IsMatchLen s i d' k' → k' ≤ k ∧ (d' < d → k' ≠ k))

/-! ### LZ77 -/

/-- R170, R173: LZ77C writes the greedy token stream of its input where it fits `OUT`, and ends in `Overflow` otherwise
(R65, R172). There is such a stream for every input. -/
def Obligations.Lz77EncodesGreedyTokens : Prop :=
  ∀ s : State, s.status ≠ .busy → s.inputOk →
    (∃ y, GreedyTokens s 0 y) ∧ ∀ y, GreedyTokens s 0 y → Writes .lz77c s y

/-- R175: the greedy token stream takes at most four bytes a symbol, for every input of less than 2^35 symbols, which is
every one that a 32-bit `IN_LEN` can name; so `Overflow` is impossible with that much room (Lz77EncodesGreedyTokens). -/
def Obligations.Lz77OutputIsAtMostFourBytesASymbol : Prop :=
  ∀ (s : State) (y : List Byte), s.inLen < 128 ^ 5 → GreedyTokens s 0 y → y.length ≤ 4 * s.inLen

/-- R176: without window or lookahead every token is a literal token. -/
def Obligations.Lz77WithoutWindowIsAllLiterals : Prop :=
  ∀ s : State, s.status ≠ .busy → s.inputOk → s.wsize = 0 ∨ s.lsize = 0 → s.roomFor (4 * s.inLen) →
    Succeeds .lz77c s fun t =>
      t.output = s.input.flatMap (fun c => [0x00#8, 0x00#8, 0x01#8, c]) ∧ t.outLen = 4 * s.inLen

/-- R177, R180, R182 to R185, R290: LZ77D ends `DONE` exactly on the streams the algorithm decodes, with its output, and
in `Overflow` where that output does not fit `OUT`. -/
def Obligations.Lz77DecodesExactlyTheStreams : Prop :=
  ∀ s : State, s.status ≠ .busy → s.inputOk →
    (∀ y, Lz77Decodes s.input [] y → Writes .lz77d s y) ∧
    (∀ t, exec .lz77d s = .next t → t.status = .done → Lz77Decodes s.input [] t.output)

/-- R189: the LZ77 round trip, of every LZ77C run that ends `DONE`, `OUT` having room for the original. (That such a run
exists where `4 * n` bytes fit is Lz77EncodesGreedyTokens with Lz77OutputIsAtMostFourBytesASymbol.) -/
def Obligations.Lz77RoundTrip : Prop :=
  ∀ s t : State, s.status ≠ .busy → s.roomFor s.inLen → exec .lz77c s = .next t → t.status = .done →
    (moveOutToIn t).inputOk → Succeeds .lz77d (moveOutToIn t) fun u => u.output = s.input

/-- R184, R185: a token copies the block before the end of the output cyclically, then appends its literal. -/
def Obligations.TokenCopiesCyclicallyThenAppends : Prop :=
  ∀ (s : State) (d l : Nat), s.running 0x05#8 → (d = 0 ↔ l = 0) → d ≤ s.outLen →
    (s.roomFor (s.outLen + l) →
      ∃ t, exec (.lz77tokNolit d l) s = .next t ∧ t.output = s.output ++ cyclicCopy s.output d l ∧
        KeepsControl s t ∧ KeepsHostSide s t ∧ KeepsResults s t ∧ KeepsDictionaries s t ∧ t.work.pos = s.work.pos) ∧
    (∀ c, s.roomFor (s.outLen + l + 1) →
      ∃ t, exec (.lz77tokLit d l c) s = .next t ∧ t.output = s.output ++ cyclicCopy s.output d l ++ [c] ∧
        KeepsControl s t ∧ KeepsHostSide s t ∧ KeepsResults s t ∧ KeepsDictionaries s t ∧ t.work.pos = s.work.pos)

/-- R99, R182, R183: a reserved marker, a token of the wrong shape and one that reaches behind the output each raise
`CorruptStream`. -/
def Obligations.FaultyTokensRaiseCorruptStream : Prop :=
  ∀ (s : State) (d l : Nat), s.running 0x05#8 →
    (∀ m, 2 ≤ m.toNat → UnitRaises (.lz77tokReserved d l m) .corruptStream s) ∧
    (¬ (d = 0 ↔ l = 0) ∨ s.outLen < d →
      UnitRaises (.lz77tokNolit d l) .corruptStream s ∧ ∀ c, UnitRaises (.lz77tokLit d l c) .corruptStream s)

/-! ### LZ78 -/

/-- R200, R204: LZ78C writes the pairs of the growing dictionary, and the flush, where they fit `OUT`, and ends in
`Overflow` otherwise (R65, R202); R206 bounds their bytes. -/
def Obligations.Lz78EncodesGrowingDictionary : Prop :=
  ∀ s : State, s.status ≠ .busy → s.inputOk →
    Writes .lz78c s (lz78Encode [] [] s.input) ∧ (lz78Encode [] [] s.input).length ≤ lz78Bound s.inLen

/-- R208, R210, R290: LZ78D ends `DONE` exactly on the streams the algorithm decodes, with its output, and in `Overflow`
where that output does not fit `OUT`. -/
def Obligations.Lz78DecodesExactlyTheStreams : Prop :=
  ∀ s : State, s.status ≠ .busy → s.inputOk →
    (∀ y, Lz78Decodes s.input [[]] y → Writes .lz78d s y) ∧
    (∀ t, exec .lz78d s = .next t → t.status = .done → Lz78Decodes s.input [[]] t.output)

/-- R214: the LZ78 round trip: where the capacities are large enough, the encoder succeeds; and every LZ78C run that
ends `DONE` is undone, `OUT` having room for the original and `IN` for the stream. -/
def Obligations.Lz78RoundTrip : Prop :=
  ∀ s : State, s.status ≠ .busy → s.inputOk → s.roomFor s.inLen →
    (s.roomFor (lz78Bound s.inLen) → Succeeds .lz78c s fun _ => True) ∧
    ∀ t, exec .lz78c s = .next t → t.status = .done → (moveOutToIn t).inputOk →
      Succeeds .lz78d (moveOutToIn t) fun u => u.output = s.input

/-- R210: one pair, with a known index and with an unknown one. -/
def Obligations.PairAppendsAndStoresItsPhrase : Prop :=
  ∀ (s : State) (index : Nat) (c : Byte), s.running 0x07#8 →
    (∀ p, Dict.get? s.work.dict78d index = some p → s.roomFor (s.outLen + p.length + 1) →
      ∃ t, exec (.lz78pair index c) s = .next t ∧ t.output = s.output ++ p ++ [c] ∧
        t.work.nextCode = s.work.nextCode + 1 ∧
        Dict.get? t.work.dict78d s.work.nextCode = some (p ++ [c]) ∧
        (∀ q, q ≠ s.work.nextCode → Dict.get? t.work.dict78d q = Dict.get? s.work.dict78d q) ∧
        t.work.pos = s.work.pos ∧ KeepsControl s t ∧ KeepsHostSide s t ∧ KeepsResults s t) ∧
    (Dict.get? s.work.dict78d index = none → UnitRaises (.lz78pair index c) .corruptStream s)

/-! ### LZW -/

/-- R230: LZWC writes the codes of the bounded table where they fit `OUT`, and ends in `Overflow` otherwise (R65, R232);
they are all below 4096 and no more than the symbols (R236). -/
def Obligations.LzwEncodesBoundedTable : Prop :=
  ∀ s : State, s.status ≠ .busy → s.inputOk →
    Writes .lzwc s (codeBytes (lzwEncode singleBytes [] s.input)) ∧
    (codeBytes (lzwEncode singleBytes [] s.input)).length ≤ 2 * s.inLen ∧
    ∀ k ∈ lzwEncode singleBytes [] s.input, k ≤ 4095

/-- R237, R240, R241, R290: LZWD ends `DONE` exactly on the streams the algorithm decodes, with its output, and in
`Overflow` where that output does not fit `OUT`. -/
def Obligations.LzwDecodesExactlyTheStreams : Prop :=
  ∀ s : State, s.status ≠ .busy → s.inputOk →
    (∀ (hi lo : Byte) (bs y : List Byte), s.input = hi :: lo :: bs → (codeOfBytes hi lo).toNat < 256 →
      LzwDecodes bs singleBytes [lo] y → Writes .lzwd s (lo :: y)) ∧
    (∀ t, exec .lzwd s = .next t → t.status = .done →
      ∃ (hi lo : Byte) (bs y : List Byte), s.input = hi :: lo :: bs ∧ (codeOfBytes hi lo).toNat < 256 ∧
        LzwDecodes bs singleBytes [lo] y ∧ t.output = lo :: y)

/-- R245: the LZW round trip of a non-empty buffer, whether or not the table fills, and its failure on the empty one. -/
def Obligations.LzwRoundTrip : Prop :=
  ∀ s : State, s.status ≠ .busy → s.inputOk → s.roomFor (2 * s.inLen) →
    Succeeds .lzwc s fun t => (moveOutToIn t).inputOk →
      (1 ≤ s.inLen → Succeeds .lzwd (moveOutToIn t) fun u => u.output = s.input) ∧
      (s.inLen = 0 → t.outLen = 0 ∧ FailsWith .lzwd .emptyStream (moveOutToIn t) fun u => u.outLen = 0)

/-- R238, R239: the whole-stream tests of LZWD, parity first, then emptiness, then the first code. -/
def Obligations.LzwdTestsTheWholeStream : Prop :=
  ∀ s : State, s.status ≠ .busy → s.inputOk →
    (s.inLen % 2 = 1 → FailsWith .lzwd .malformedInput s fun t => t.outLen = 0) ∧
    (s.inLen = 0 → FailsWith .lzwd .emptyStream s fun t => t.outLen = 0) ∧
    (s.inLen % 2 = 0 → 2 ≤ s.inLen → 256 ≤ 256 * (s.inByte 0).toNat + (s.inByte 1).toNat →
      FailsWith .lzwd .corruptStream s fun t => t.outLen = 0)

/-- R239, R240: the first code word of a stream, `POS` past it. -/
def Obligations.FirstCodeWordMustBeKnown : Prop :=
  ∀ (s : State) (k : CodeWord), s.running 0x09#8 → s.work.pos = 2 →
    (∀ p, Dict.get? s.work.dictwd k.toNat = some p → s.roomFor (s.outLen + p.length) →
      ∃ t, exec (.lzwcode k) s = .next t ∧ t.output = s.output ++ p ∧ t.work.prev = p ∧
        t.work.dictwd = s.work.dictwd ∧ t.work.nextCode = s.work.nextCode ∧ t.work.pos = s.work.pos ∧
        KeepsControl s t ∧ KeepsHostSide s t ∧ KeepsResults s t) ∧
    (Dict.get? s.work.dictwd k.toNat = none → UnitRaises (.lzwcode k) .corruptStream s)

/-- R240, R241, R242, R243: a later code word is known, or `NEXT_CODE` itself, or rejected; the table grows by
`PREV ++ [entry[0]]` until it holds 4096 entries, and then stays as it is. -/
def Obligations.LaterCodeWordKnownNextOrRejected : Prop :=
  ∀ (s : State) (k : CodeWord), s.running 0x09#8 → s.work.pos ≠ 2 →
    (∀ e, (Dict.get? s.work.dictwd k.toNat = some e ∨
        (Dict.get? s.work.dictwd k.toNat = none ∧ k.toNat = s.work.nextCode ∧
          e = s.work.prev ++ s.work.prev.take 1)) →
      s.roomFor (s.outLen + e.length) →
      ∃ t, exec (.lzwcode k) s = .next t ∧ t.output = s.output ++ e ∧ t.work.prev = e ∧
        t.work.pos = s.work.pos ∧ KeepsControl s t ∧ KeepsHostSide s t ∧ KeepsResults s t ∧
        (s.work.dictwd.length < 4096 →
          t.work.nextCode = s.work.nextCode + 1 ∧
          Dict.get? t.work.dictwd s.work.nextCode = some (s.work.prev ++ e.take 1) ∧
          ∀ q, q ≠ s.work.nextCode → Dict.get? t.work.dictwd q = Dict.get? s.work.dictwd q) ∧
        (4096 ≤ s.work.dictwd.length → t.work.nextCode = s.work.nextCode ∧ t.work.dictwd = s.work.dictwd)) ∧
    (Dict.get? s.work.dictwd k.toNat = none → k.toNat ≠ s.work.nextCode → UnitRaises (.lzwcode k) .corruptStream s)

/-- R234: with a full table LZWC goes on matching and emitting and adds nothing. -/
def Obligations.FullEncoderTableStaysFrozen : Prop :=
  ∀ s t : State, s.running 0x08#8 → 4096 ≤ s.work.dictwe.length → step s = .next t → t.status = .busy →
    t.work.dictwe = s.work.dictwe ∧ t.work.nextCode = s.work.nextCode

/-! ### Control and errors -/

/-- R264: CLR. -/
def Obligations.ClrRestoresIdle : Prop :=
  ∀ s : State, s.status ≠ .busy →
    ∃ t, exec .clr s = .next t ∧ t.cmd = 0x0F#8 ∧ t.status = .idle ∧ t.kind = none ∧ t.outLen = 0 ∧
      (∀ a, t.outByte a = s.outByte a) ∧ KeepsHostSide s t ∧ KeepsResults s t

/-- R93, R263: an opcode R92 does not assign. -/
def Obligations.UnassignedOpcodeIsIllegal : Prop :=
  ∀ (op : Byte) (s : State), ¬ assignedOpcode op → s.status ≠ .busy →
    decodeCommand op = .illegal op ∧
    FailsWith (.illegal op) .illegalOperation s fun t => KeepsOut s t ∧ KeepsResults s t

/-- R262: a command that reads `IN` first tests its length. -/
def Obligations.TooLongInputIsIllegal : Prop :=
  ∀ (i : Instr) (s : State), i ∈ inCommands → s.status ≠ .busy →
    (∀ c, s.par.inCap = some c → c < s.inLen → FailsWith i .illegalOperation s fun _ => True) ∧
    (s.par.inCap = none → s.inputOk)

/-- R109: the empty buffer through the six codec commands. -/
def Obligations.EmptyStreamOfEachCodec : Prop :=
  ∀ (i : Instr) (s : State), s.status ≠ .busy → s.inLen = 0 →
    (i ∈ [Instr.lz77c, .lz78c, .lzwc, .lz77d, .lz78d] → Succeeds i s fun t => t.outLen = 0) ∧
    FailsWith .lzwd .emptyStream s fun t => t.outLen = 0

/-- R261: every command but CLR ends, in `DONE` with no kind or in `ERROR` with one; CLR ends `IDLE` (R264). -/
def Obligations.EveryCommandEnds : Prop :=
  ∀ (i : Instr) (s : State), IsIssued i → s.status ≠ .busy →
    ∃ t, exec i s = .next t ∧
      (i ≠ .clr → (t.status = .done ∧ t.kind = none) ∨ (t.status = .error ∧ ∃ k, t.kind = some k)) ∧
      (i = .clr → t.status = .idle ∧ t.kind = none)

/-- R287: what error completion leaves, by the command that failed. -/
def Obligations.ErrorCompletionByCommand : Prop :=
  ∀ (i : Instr) (s t : State), IsIssued i → exec i s = .next t → t.status = .error →
    (∃ k, t.kind = some k) ∧ t.cmd = opcode i ∧ KeepsHostSide s t ∧
    (i ∈ outCommands → t.outLen = 0) ∧ (i ∉ outCommands → KeepsOut s t) ∧
    (i ≠ .vdec → i ≠ .matcher → KeepsResults s t)

/-- R33, R48, R53: the frame of the commands that write `OUT`, of VDEC and MATCH, and of CLR. -/
def Obligations.CommandFrame : Prop :=
  ∀ (i : Instr) (s t : State), IsIssued i → exec i s = .next t →
    t.cmd = opcode i ∧ KeepsHostSide s t ∧
    (i ∈ outCommands ∨ i = .clr → KeepsResults s t) ∧
    (i = .vdec ∨ i = .matcher → KeepsOut s t) ∧
    (i = .vdec → t.status = .done → t.res2 = s.res2)

/-- R286: a command raises only the kinds of its row. -/
def Obligations.CommandRaisesOnlyItsKinds : Prop :=
  ∀ (i : Instr) (s t : State) (k : ErrKind), IsIssued i → exec i s = .next t → t.kind = some k → k ∈ raisable i

/-- R65, R291: a token, a pair or a code word, `NEXT_CODE` itself included, whose bytes do not fit `OUT` raises
`Overflow`, after its own checks. -/
def Obligations.UnitBeyondCapacityOverflows : Prop :=
  ∀ (s : State) (cap : Nat), s.par.outCap = some cap → s.outLen ≤ cap →
    (∀ d l, s.running 0x05#8 → (d = 0 ↔ l = 0) → d ≤ s.outLen →
      (cap < s.outLen + l → UnitRaises (.lz77tokNolit d l) .overflow s) ∧
      ∀ c, cap < s.outLen + l + 1 → UnitRaises (.lz77tokLit d l c) .overflow s) ∧
    (∀ index c p, s.running 0x07#8 → Dict.get? s.work.dict78d index = some p → cap < s.outLen + p.length + 1 →
      UnitRaises (.lz78pair index c) .overflow s) ∧
    (∀ k p, s.running 0x09#8 → Dict.get? s.work.dictwd k.toNat = some p → cap < s.outLen + p.length →
      UnitRaises (.lzwcode k) .overflow s) ∧
    (∀ k, s.running 0x09#8 → s.work.pos ≠ 2 → Dict.get? s.work.dictwd k.toNat = none → k.toNat = s.work.nextCode →
      cap < s.outLen + (s.work.prev ++ s.work.prev.take 1).length → UnitRaises (.lzwcode k) .overflow s)

/-- R132, R133: the bytes of a varint, taken one at a time. -/
def Obligations.VarintBytesAccumulate : Prop :=
  ∀ (s : State) (g : Group), s.status = .busy →
    (s.cmd ∈ [0x02#8, 0x05#8, 0x07#8] →
      ∃ t, exec (.varintCont g) s = .next t ∧
        t.work.vValue = s.work.vValue + g.toNat * 128 ^ s.work.vCount ∧ t.work.vCount = s.work.vCount + 1 ∧
        t.work.vOff = s.work.vOff ∧ t.work.pos = s.work.pos ∧ KeepsControl s t ∧ KeepsHostSide s t ∧
        KeepsOut s t ∧ KeepsResults s t ∧ KeepsDictionaries s t) ∧
    (s.cmd ∈ [0x05#8, 0x07#8] →
      ∃ t, exec (.varintLast g) s = .next t ∧
        t.work.vValue = s.work.vValue + g.toNat * 128 ^ s.work.vCount ∧ t.work.vOff = s.work.vOff ∧
        t.work.pos = s.work.pos ∧ KeepsControl s t ∧ KeepsHostSide s t ∧ KeepsOut s t ∧ KeepsResults s t ∧
        KeepsDictionaries s t) ∧
    (s.cmd = 0x02#8 → ∀ v, v = s.work.vValue + g.toNat * 128 ^ s.work.vCount →
      (s.par.fits v → ∃ t, exec (.varintLast g) s = .next t ∧ t.status = .done ∧ t.cmd = s.cmd ∧
        t.kind = s.kind ∧ t.res0 = v ∧ t.res1 = s.work.vOff ∧ t.res2 = s.res2 ∧ KeepsHostSide s t ∧ KeepsOut s t) ∧
      (¬ s.par.fits v → ∃ t, exec (.varintLast g) s = .next t ∧ t.status = .error ∧ t.kind = some .overflow ∧
        t.cmd = s.cmd ∧ KeepsHostSide s t ∧ KeepsOut s t))

/-- R48, R63, R287: the frame of the stream units: the host's side never changes, `RES0` to `RES2` not outside VDEC, and
no byte of `OUT` but those appended at `OUT_LEN`, unless the output is withdrawn. -/
def Obligations.StreamUnitFrame : Prop :=
  ∀ (i : Instr) (s t : State), i.format ≠ .cmd8 → exec i s = .next t →
    t.cmd = s.cmd ∧ KeepsHostSide s t ∧ (s.cmd ≠ 0x02#8 → KeepsResults s t) ∧
    (s.cmd = 0x02#8 → KeepsOut s t) ∧
    (t.status ≠ .error → t.kind = s.kind ∧ s.outLen ≤ t.outLen ∧
      ∀ a, a < s.outLen ∨ t.outLen ≤ a → t.outByte a = s.outByte a)

/-- R20, R132, R180, R210, R240: the working registers a stream unit leaves while its command goes on: all but the
varint's running value and count, the token, the LZ78 decoder's dictionary, or `PREV` and the LZW decoder's. -/
def Obligations.UnitsKeepOtherWorkingRegisters : Prop :=
  ∀ s t : State, t.status = .busy →
    (∀ g, exec (.varintCont g) s = .next t ∨ exec (.varintLast g) s = .next t →
      t.work = { s.work with vValue := t.work.vValue, vCount := t.work.vCount }) ∧
    (∀ d l, exec (.lz77tokNolit d l) s = .next t → t.work = { s.work with tDist := d, tLen := l, tNext := none }) ∧
    (∀ d l c, exec (.lz77tokLit d l c) s = .next t → t.work = { s.work with tDist := d, tLen := l, tNext := some c }) ∧
    (∀ d l m, exec (.lz77tokReserved d l m) s ≠ .next t) ∧
    (∀ index c, exec (.lz78pair index c) s = .next t →
      t.work = { s.work with dict78d := t.work.dict78d, nextCode := t.work.nextCode }) ∧
    (∀ k, exec (.lzwcode k) s = .next t →
      t.work = { s.work with prev := t.work.prev, dictwd := t.work.dictwd, nextCode := t.work.nextCode })

/-- The model's choices of log entries 11 and 12 (R74, R90): where a command or a stream unit has no meaning. -/
def Obligations.RefusalsAreExactlyThese : Prop :=
  (∀ (i : Instr) (s : State), i.format = .cmd8 →
    (exec i s = .refused .hostAccessWhileBusy ↔ s.status = .busy)) ∧
  (∀ (i : Instr) (s : State), i.format ≠ .cmd8 →
    (exec i s = .refused .unitOutsideItsDecoder ↔ ¬ (s.status = .busy ∧ s.cmd ∈ consumers i)))

/-! ### The step -/

/-- R22, R260: the host's write of `v` to `CMD` runs the command that bits 7:0 select, as one step. (R21 places `CMD` at
offset 0x00 for `XW = 32`; that it stands there for every `XW` is the model's choice, log entry 34.) -/
def Obligations.CmdWriteStepRunsTheCommand : Prop :=
  ∀ (s : State) (v : Nat) (rest : List HostOp), s.status ≠ .busy → s.host = .writeReg 0x00 v :: rest →
    step s = exec (decodeCommand (BitVec.ofNat 8 v)) { s with host := rest }

/-- R106, R180, R210, R240, R132: while a decoder runs, a step fetches the unit at the cursor, moves the cursor past it
and runs it. Bytes that are no whole unit end the command with the kind of the part that is missing (R186, R211, R238,
R281, R282). -/
def Obligations.DecoderStepRunsTheUnit : Prop :=
  (∀ (s : State) (i : Instr) (n : Nat), s.status = .busy → s.inputOk →
    (s.work.pos < s.inLen →
      (s.cmd = 0x05#8 → decode .lz77tok (s.inFrom s.work.pos) = .ok i n → step s = exec i (s.advance n)) ∧
      (s.cmd = 0x07#8 → decode .lz78pair (s.inFrom s.work.pos) = .ok i n → step s = exec i (s.advance n)) ∧
      (s.cmd = 0x09#8 → (s.work.pos = 0 → s.inLen % 2 = 0) →
        decode .lzwcode (s.inFrom s.work.pos) = .ok i n → step s = exec i (s.advance n))) ∧
    (s.cmd = 0x02#8 → decode .varint (s.inFrom s.work.vOff) = .ok i n → step s = exec i (s.advanceVarint n))) ∧
  (∀ s : State, s.status = .busy → s.inputOk →
    (s.work.pos < s.inLen →
      (s.cmd = 0x05#8 →
        (decode .lz77tok (s.inFrom s.work.pos) = .error .varintUnterminated → StepRaises .malformedInput s) ∧
        (decode .lz77tok (s.inFrom s.work.pos) = .error .markerMissing → StepRaises .corruptStream s) ∧
        (decode .lz77tok (s.inFrom s.work.pos) = .error .literalMissing → StepRaises .corruptStream s)) ∧
      (s.cmd = 0x07#8 →
        (decode .lz78pair (s.inFrom s.work.pos) = .error .varintUnterminated → StepRaises .malformedInput s) ∧
        (decode .lz78pair (s.inFrom s.work.pos) = .error .literalMissing → StepRaises .corruptStream s)) ∧
      (s.cmd = 0x09#8 → s.work.pos = 0 → s.inLen % 2 = 1 → StepRaises .malformedInput s)) ∧
    (s.cmd = 0x02#8 → s.inLen ≤ s.work.vOff →
      ∃ t, step s = .next t ∧ t.cmd = s.cmd ∧ t.status = .error ∧ t.kind = some .malformedInput ∧
        KeepsHostSide s t ∧ KeepsOut s t))

/-- R74, R260, R261: a command's one transition is its start and then engine steps, `BUSY` all the way until it ends. -/
def Obligations.CommandIsItsEngineRun : Prop :=
  ∀ (i : Instr) (s : State), IsIssued i → s.status ≠ .busy →
    ∃ (n : Nat) (t : State), exec i s = .next t ∧ t.status ≠ .busy ∧
      Sys2Proof.core.run n (start (opcode i) s) = .next t ∧
      ∀ m, m < n → ∃ u : State, Sys2Proof.core.run m (start (opcode i) s) = .next u ∧ u.status = .busy

/-- R21: what a host read of each register returns, and of the reserved offsets. (R21's offsets assume `XW = 32`; that they
hold for every `XW` is the model's choice, log entry 34.) -/
def Obligations.RegisterMapReads : Prop :=
  ∀ (s : State) (off v : Nat) (rest : List HostOp), s.status ≠ .busy → s.host = .readReg off :: rest →
    ((off, v) ∈ [(0x00, s.cmd.toNat), (0x04, s.status.code), (0x08, kindCode s.kind), (0x0C, s.wsize), (0x10, s.lsize),
      (0x14, s.inLen), (0x18, s.outLen), (0x1C, s.arg0), (0x20, s.res0), (0x24, s.res1), (0x28, s.res2.toNat)] ∨
      (0x2C ≤ off ∧ v = 0)) →
    step s = .next { s with host := rest, rdata := v }

/-- R21, R33: a host write reaches the four `RW` registers, within `XW` bits, and is ignored by the others and at the
reserved offsets. (R21's offsets assume `XW = 32`; that they hold for every `XW` is the model's choice, log entry 34.) -/
def Obligations.RegisterMapWrites : Prop :=
  ∀ (s : State) (off v : Nat) (rest : List HostOp), s.status ≠ .busy → s.host = .writeReg off v :: rest →
    (s.par.fits v →
      (off = 0x0C → step s = .next { s with host := rest, wsize := v }) ∧
      (off = 0x10 → step s = .next { s with host := rest, lsize := v }) ∧
      (off = 0x14 → step s = .next { s with host := rest, inLen := v }) ∧
      (off = 0x1C → step s = .next { s with host := rest, arg0 := v })) ∧
    (off ∈ [0x04, 0x08, 0x18, 0x20, 0x24, 0x28] ∨ 0x2C ≤ off → step s = .next { s with host := rest })

/-- R61, R48, R49: a byte the host writes into `IN` is what the engine reads there, and no other byte changes; and the
host's read of `OUT` returns the byte below `OUT_LEN`, and at and beyond it some byte. -/
def Obligations.HostWriteOfInIsRead : Prop :=
  (∀ (s : State) (a : Nat) (b : Byte) (rest : List HostOp), s.status ≠ .busy → s.host = .writeIn a b :: rest →
    (inside s.par.inCap a = true →
      ∃ t, step s = .next t ∧ t.inByte a = b ∧ (∀ x, x ≠ a → t.inByte x = s.inByte x) ∧ t.inLen = s.inLen ∧
        KeepsOut s t ∧ KeepsControl s t ∧ KeepsResults s t) ∧
    (inside s.par.inCap a = false → step s = .fault .inIndexOutOfRange)) ∧
  (∀ (s : State) (a : Nat) (rest : List HostOp), s.status ≠ .busy → s.host = .readOut a :: rest →
    (inside s.par.outCap a = true →
      (a < s.outLen → step s = .next { s with host := rest, rdata := (s.outByte a).toNat }) ∧
      (s.outLen ≤ a → ∃ (b : Byte) (n : Nat),
        step s = .next { s with host := rest, rdata := b.toNat, freeCount := n })) ∧
    (inside s.par.outCap a = false → step s = .fault .outIndexOutOfRange))

/-- R76, R325: the host's move makes the output the next input. -/
def Obligations.MoveMakesOutputTheInput : Prop :=
  ∀ (s : State) (rest : List HostOp), s.status ≠ .busy → s.host = .copyOutToIn :: rest →
    (∀ c, s.par.inCap = some c → s.outLen ≤ c) →
    ∃ t, step s = .next t ∧ t.input = s.output ∧ t.inLen = s.outLen ∧
      (∀ a, s.outLen ≤ a → t.inByte a = s.inByte a) ∧ KeepsOut s t ∧ KeepsControl s t ∧ KeepsResults s t

/-- R64: a step of the running engine leaves every byte of `IN` and all the host owns. -/
def Obligations.EngineNeverWritesIn : Prop :=
  ∀ s : State, s.status = .busy → ∃ t, step s = .next t ∧ KeepsHostSide s t

/-- R63: while a command runs and does not fail, `OUT_LEN` does not shrink, and no byte of `OUT` changes but those
appended at `OUT_LEN`. (CLR is the one command that sets `OUT_LEN` to 0 instead.) -/
def Obligations.OutIsAppendOnly : Prop :=
  ∀ s t : State, s.status = .busy → s.cmd ≠ 0x0F#8 → step s = .next t → t.status ≠ .error →
    s.outLen ≤ t.outLen ∧ ∀ a, a < s.outLen ∨ t.outLen ≤ a → t.outByte a = s.outByte a

/-- R300, R321: with no move of the host's left the block idles and keeps its state. -/
def Obligations.IdleBlockKeepsItsState : Prop :=
  ∀ s : State, s.status ≠ .busy → s.host = [] → step s = .next s

/-! ### Reset and invariants -/

/-- R52, R321: the reset values the spec states, for every implementation. -/
def Obligations.ResetValues : Prop :=
  ∀ p : Params, (State.resetWith p).cmd = 0x00#8 ∧ (State.resetWith p).status = .idle ∧
    (State.resetWith p).kind = none ∧ (State.resetWith p).wsize = 4096 ∧ (State.resetWith p).lsize = p.lDefault ∧
    (State.resetWith p).inLen = 0 ∧ (State.resetWith p).outLen = 0 ∧ (State.resetWith p).arg0 = 0

/-- R320: the reset input puts the block into its reset state. -/
def Obligations.ResetInputRestoresResetValues : Prop :=
  ∀ (s : State) (rest : List HostOp), s.status ≠ .busy → s.host = .reset :: rest →
    ∃ t, step s = .next t ∧ t.par = s.par ∧ t.cmd = 0x00#8 ∧ t.status = .idle ∧ t.kind = none ∧ t.wsize = 4096 ∧
      t.lsize = s.par.lDefault ∧ t.inLen = 0 ∧ t.outLen = 0 ∧ t.arg0 = 0 ∧ t.host = rest

/-- The invariant holds after reset, for every implementation R8 admits. -/
def Obligations.ResetMeetsInvariant : Prop :=
  (∀ p : Params, p.wf → Inv (State.resetWith p)) ∧ Inv State.reset

/-- R21, R24, R34, R48, R49: every step keeps the invariant of the host-visible state. -/
def Obligations.StepKeepsInvariant : Prop :=
  ∀ s t : State, Inv s → step s = .next t → Inv t

/-- R37, R41 to R44, R246: the start of a command sets up the dictionary invariant, and every step keeps it. -/
def Obligations.DictionaryInvariantKept : Prop :=
  (∀ (op : Byte) (s : State), DictInv (start op s)) ∧
  (∀ s t : State, DictInv s → step s = .next t → DictInv t)

/-- R15, R265: a command's result depends on its inputs alone, not on what ran before. -/
def Obligations.ResultDependsOnInputsAlone : Prop :=
  ∀ (i : Instr) (s s' : State), IsIssued i → s.status ≠ .busy → s'.status ≠ .busy → SameInputs s s' →
    ∃ t t', exec i s = .next t ∧ exec i s' = .next t' ∧ t.status = t'.status ∧ t.kind = t'.kind ∧
      (i ∈ outCommands → t.output = t'.output) ∧
      (t.status = .done → i = .vdec ∨ i = .matcher → t.res0 = t'.res0 ∧ t.res1 = t'.res1) ∧
      (t.status = .done → i = .matcher → t.res2 = t'.res2)
end

