-- ==== Sys2Proof/Laws/Encoding.lean ====
section
/-! SUPPORT. Laws of the bit fields and the byte lengths of the encodings. -/

namespace Sys2Proof

theorem toNat_varintByte (c : Bool) (g : Group) : (varintByte c g).toNat = (if c then 128 else 0) + g.toNat := by
  have := g.isLt
  unfold varintByte
  rw [BitVec.toNat_ofNat, Nat.mod_eq_of_lt]
  split <;> omega

@[simp] theorem contBit_varintByte (c : Bool) (g : Group) : contBit (varintByte c g) = c := by
  have := g.isLt
  rw [contBit, toNat_varintByte]
  cases c
  · simpa using by omega
  · simp

@[simp] theorem payload_varintByte (c : Bool) (g : Group) : payload (varintByte c g) = g := by
  have := g.isLt
  apply BitVec.eq_of_toNat_eq
  rw [payload, toNat_varintByte, BitVec.toNat_ofNat]
  cases c <;> simp <;> omega

theorem toNat_payload (x : Byte) : (payload x).toNat = x.toNat % 128 := by simp [payload]

/-- A varint byte is its continuation bit and its payload group (R94). -/
theorem varintByte_fields (x : Byte) : varintByte (contBit x) (payload x) = x := by
  have := x.isLt
  apply BitVec.eq_of_toNat_eq
  rw [toNat_varintByte, toNat_payload]
  by_cases h : 128 ≤ x.toNat <;> simp [contBit, h] <;> omega

@[simp] theorem codeOfBytes_hi_lo (k : CodeWord) : codeOfBytes (codeHi k) (codeLo k) = k := by
  have := k.isLt
  apply BitVec.eq_of_toNat_eq
  simp only [codeOfBytes, codeHi, codeLo, BitVec.toNat_ofNat]
  omega

theorem toNat_codeOfBytes (hi lo : Byte) : (codeOfBytes hi lo).toNat = 256 * hi.toNat + lo.toNat := by
  have := hi.isLt
  have := lo.isLt
  rw [codeOfBytes, BitVec.toNat_ofNat, Nat.mod_eq_of_lt]
  omega

/-- A decoded varint takes at least one byte and no more than there are (R97). -/
theorem decodeVarint_size {bs : List Byte} {v k : Nat} (h : decodeVarint bs = some (v, k)) :
    1 ≤ k ∧ k ≤ bs.length := by
  induction bs generalizing v k with
  | nil => cases h
  | cons x xs ih =>
    unfold decodeVarint at h
    split at h
    · split at h
      · cases h
      · rename_i heq
        cases h
        have := ih heq
        simp only [List.length_cons]
        omega
    · cases h
      simp

theorem encodeVarintFuel_ne_nil (f n : Nat) : encodeVarintFuel f n ≠ [] := by
  cases f with
  | zero => simp [encodeVarintFuel]
  | succ f => unfold encodeVarintFuel; split <;> simp

theorem encodeVarint_length_pos (n : Nat) : 0 < (encodeVarint n).length :=
  List.length_pos_iff.mpr (encodeVarintFuel_ne_nil _ n)

@[simp] theorem length_encodeToken (d l : Nat) (x : Option Byte) :
    (encodeToken d l x).length = (encodeVarint d).length + (encodeVarint l).length + (if x.isSome then 2 else 1) := by
  cases x <;> simp [encodeToken, encodeNext, Nat.add_assoc]

@[simp] theorem length_encodePair (i : Nat) (c : Byte) :
    (encodePair i c).length = (encodeVarint i).length + 1 := by simp [encodePair]

@[simp] theorem length_encodeCode (k : CodeWord) : (encodeCode k).length = 2 := rfl

end Sys2Proof
end

