-- ==== Sys2Proof/Laws/State.lean ====
section
/-! SUPPORT. One lemma per field per update of the state, each true by `rfl`, so that no later proof unfolds a record
update. -/

set_option Elab.async false

namespace Sys2Proof.Machine

/-! ### `State.clearOut` -/

@[simp] theorem State.clearOut_par (s : State) : s.clearOut.par = s.par := rfl
@[simp] theorem State.clearOut_cmd (s : State) : s.clearOut.cmd = s.cmd := rfl
@[simp] theorem State.clearOut_status (s : State) : s.clearOut.status = s.status := rfl
@[simp] theorem State.clearOut_kind (s : State) : s.clearOut.kind = s.kind := rfl
@[simp] theorem State.clearOut_wsize (s : State) : s.clearOut.wsize = s.wsize := rfl
@[simp] theorem State.clearOut_lsize (s : State) : s.clearOut.lsize = s.lsize := rfl
@[simp] theorem State.clearOut_inLen (s : State) : s.clearOut.inLen = s.inLen := rfl
@[simp] theorem State.clearOut_outLen (s : State) : s.clearOut.outLen = 0 := rfl
@[simp] theorem State.clearOut_arg0 (s : State) : s.clearOut.arg0 = s.arg0 := rfl
@[simp] theorem State.clearOut_res0 (s : State) : s.clearOut.res0 = s.res0 := rfl
@[simp] theorem State.clearOut_res1 (s : State) : s.clearOut.res1 = s.res1 := rfl
@[simp] theorem State.clearOut_res2 (s : State) : s.clearOut.res2 = s.res2 := rfl
@[simp] theorem State.clearOut_inBuf (s : State) : s.clearOut.inBuf = s.inBuf := rfl
@[simp] theorem State.clearOut_outBuf (s : State) : s.clearOut.outBuf = [] := rfl
@[simp] theorem State.clearOut_work (s : State) : s.clearOut.work = s.work := rfl
@[simp] theorem State.clearOut_inEpoch (s : State) : s.clearOut.inEpoch = s.inEpoch := rfl
@[simp] theorem State.clearOut_outEpoch (s : State) : s.clearOut.outEpoch = s.freeCount := rfl
@[simp] theorem State.clearOut_freeCount (s : State) : s.clearOut.freeCount = s.freeCount + 1 := rfl
@[simp] theorem State.clearOut_host (s : State) : s.clearOut.host = s.host := rfl
@[simp] theorem State.clearOut_rdata (s : State) : s.clearOut.rdata = s.rdata := rfl

/-! ### `State.loseResults` -/

@[simp] theorem State.loseResults_par (s : State) : s.loseResults.par = s.par := rfl
@[simp] theorem State.loseResults_cmd (s : State) : s.loseResults.cmd = s.cmd := rfl
@[simp] theorem State.loseResults_status (s : State) : s.loseResults.status = s.status := rfl
@[simp] theorem State.loseResults_kind (s : State) : s.loseResults.kind = s.kind := rfl
@[simp] theorem State.loseResults_wsize (s : State) : s.loseResults.wsize = s.wsize := rfl
@[simp] theorem State.loseResults_lsize (s : State) : s.loseResults.lsize = s.lsize := rfl
@[simp] theorem State.loseResults_inLen (s : State) : s.loseResults.inLen = s.inLen := rfl
@[simp] theorem State.loseResults_outLen (s : State) : s.loseResults.outLen = s.outLen := rfl
@[simp] theorem State.loseResults_arg0 (s : State) : s.loseResults.arg0 = s.arg0 := rfl
@[simp] theorem State.loseResults_res0 (s : State) :
    s.loseResults.res0 = s.par.trunc (Config.freeNat .res0 s.freeCount) := rfl
@[simp] theorem State.loseResults_res1 (s : State) :
    s.loseResults.res1 = s.par.trunc (Config.freeNat .res1 s.freeCount) := rfl
@[simp] theorem State.loseResults_res2 (s : State) : s.loseResults.res2 = Config.freeRes2 s.freeCount := rfl
@[simp] theorem State.loseResults_inBuf (s : State) : s.loseResults.inBuf = s.inBuf := rfl
@[simp] theorem State.loseResults_outBuf (s : State) : s.loseResults.outBuf = s.outBuf := rfl
@[simp] theorem State.loseResults_work (s : State) : s.loseResults.work = s.work := rfl
@[simp] theorem State.loseResults_inEpoch (s : State) : s.loseResults.inEpoch = s.inEpoch := rfl
@[simp] theorem State.loseResults_outEpoch (s : State) : s.loseResults.outEpoch = s.outEpoch := rfl
@[simp] theorem State.loseResults_freeCount (s : State) : s.loseResults.freeCount = s.freeCount + 1 := rfl
@[simp] theorem State.loseResults_host (s : State) : s.loseResults.host = s.host := rfl
@[simp] theorem State.loseResults_rdata (s : State) : s.loseResults.rdata = s.rdata := rfl

/-! ### `State.discard` -/

@[simp] theorem State.discard_par (s : State) : s.discard.par = s.par := rfl
@[simp] theorem State.discard_cmd (s : State) : s.discard.cmd = s.cmd := rfl
@[simp] theorem State.discard_status (s : State) : s.discard.status = s.status := rfl
@[simp] theorem State.discard_kind (s : State) : s.discard.kind = s.kind := rfl
@[simp] theorem State.discard_wsize (s : State) : s.discard.wsize = s.wsize := rfl
@[simp] theorem State.discard_lsize (s : State) : s.discard.lsize = s.lsize := rfl
@[simp] theorem State.discard_inLen (s : State) : s.discard.inLen = s.inLen := rfl
@[simp] theorem State.discard_outLen (s : State) : s.discard.outLen = s.outLen := rfl
@[simp] theorem State.discard_arg0 (s : State) : s.discard.arg0 = s.arg0 := rfl
@[simp] theorem State.discard_res0 (s : State) : s.discard.res0 = s.res0 := rfl
@[simp] theorem State.discard_res1 (s : State) : s.discard.res1 = s.res1 := rfl
@[simp] theorem State.discard_res2 (s : State) : s.discard.res2 = s.res2 := rfl
@[simp] theorem State.discard_inBuf (s : State) : s.discard.inBuf = s.inBuf := rfl
@[simp] theorem State.discard_outBuf (s : State) : s.discard.outBuf = s.outBuf := rfl
@[simp] theorem State.discard_work (s : State) : s.discard.work = Work.unspecified s.freeCount := rfl
@[simp] theorem State.discard_inEpoch (s : State) : s.discard.inEpoch = s.inEpoch := rfl
@[simp] theorem State.discard_outEpoch (s : State) : s.discard.outEpoch = s.outEpoch := rfl
@[simp] theorem State.discard_freeCount (s : State) : s.discard.freeCount = s.freeCount + 1 := rfl
@[simp] theorem State.discard_host (s : State) : s.discard.host = s.host := rfl
@[simp] theorem State.discard_rdata (s : State) : s.discard.rdata = s.rdata := rfl

/-! ### `State.setWork` -/

@[simp] theorem State.setWork_par (s : State) (w : Work) : (s.setWork w).par = s.par := rfl
@[simp] theorem State.setWork_cmd (s : State) (w : Work) : (s.setWork w).cmd = s.cmd := rfl
@[simp] theorem State.setWork_status (s : State) (w : Work) : (s.setWork w).status = s.status := rfl
@[simp] theorem State.setWork_kind (s : State) (w : Work) : (s.setWork w).kind = s.kind := rfl
@[simp] theorem State.setWork_wsize (s : State) (w : Work) : (s.setWork w).wsize = s.wsize := rfl
@[simp] theorem State.setWork_lsize (s : State) (w : Work) : (s.setWork w).lsize = s.lsize := rfl
@[simp] theorem State.setWork_inLen (s : State) (w : Work) : (s.setWork w).inLen = s.inLen := rfl
@[simp] theorem State.setWork_outLen (s : State) (w : Work) : (s.setWork w).outLen = s.outLen := rfl
@[simp] theorem State.setWork_arg0 (s : State) (w : Work) : (s.setWork w).arg0 = s.arg0 := rfl
@[simp] theorem State.setWork_res0 (s : State) (w : Work) : (s.setWork w).res0 = s.res0 := rfl
@[simp] theorem State.setWork_res1 (s : State) (w : Work) : (s.setWork w).res1 = s.res1 := rfl
@[simp] theorem State.setWork_res2 (s : State) (w : Work) : (s.setWork w).res2 = s.res2 := rfl
@[simp] theorem State.setWork_inBuf (s : State) (w : Work) : (s.setWork w).inBuf = s.inBuf := rfl
@[simp] theorem State.setWork_outBuf (s : State) (w : Work) : (s.setWork w).outBuf = s.outBuf := rfl
@[simp] theorem State.setWork_work (s : State) (w : Work) : (s.setWork w).work = w := rfl
@[simp] theorem State.setWork_inEpoch (s : State) (w : Work) : (s.setWork w).inEpoch = s.inEpoch := rfl
@[simp] theorem State.setWork_outEpoch (s : State) (w : Work) : (s.setWork w).outEpoch = s.outEpoch := rfl
@[simp] theorem State.setWork_freeCount (s : State) (w : Work) : (s.setWork w).freeCount = s.freeCount := rfl
@[simp] theorem State.setWork_host (s : State) (w : Work) : (s.setWork w).host = s.host := rfl
@[simp] theorem State.setWork_rdata (s : State) (w : Work) : (s.setWork w).rdata = s.rdata := rfl

/-! ### `State.latch` -/

@[simp] theorem State.latch_par (s : State) (op : Byte) : (s.latch op).par = s.par := rfl
@[simp] theorem State.latch_cmd (s : State) (op : Byte) : (s.latch op).cmd = op := rfl
@[simp] theorem State.latch_status (s : State) (op : Byte) : (s.latch op).status = .busy := rfl
@[simp] theorem State.latch_kind (s : State) (op : Byte) : (s.latch op).kind = none := rfl
@[simp] theorem State.latch_wsize (s : State) (op : Byte) : (s.latch op).wsize = s.wsize := rfl
@[simp] theorem State.latch_lsize (s : State) (op : Byte) : (s.latch op).lsize = s.lsize := rfl
@[simp] theorem State.latch_inLen (s : State) (op : Byte) : (s.latch op).inLen = s.inLen := rfl
@[simp] theorem State.latch_outLen (s : State) (op : Byte) : (s.latch op).outLen = s.outLen := rfl
@[simp] theorem State.latch_arg0 (s : State) (op : Byte) : (s.latch op).arg0 = s.arg0 := rfl
@[simp] theorem State.latch_res0 (s : State) (op : Byte) : (s.latch op).res0 = s.res0 := rfl
@[simp] theorem State.latch_res1 (s : State) (op : Byte) : (s.latch op).res1 = s.res1 := rfl
@[simp] theorem State.latch_res2 (s : State) (op : Byte) : (s.latch op).res2 = s.res2 := rfl
@[simp] theorem State.latch_inBuf (s : State) (op : Byte) : (s.latch op).inBuf = s.inBuf := rfl
@[simp] theorem State.latch_outBuf (s : State) (op : Byte) : (s.latch op).outBuf = s.outBuf := rfl
@[simp] theorem State.latch_work (s : State) (op : Byte) : (s.latch op).work = s.work := rfl
@[simp] theorem State.latch_inEpoch (s : State) (op : Byte) : (s.latch op).inEpoch = s.inEpoch := rfl
@[simp] theorem State.latch_outEpoch (s : State) (op : Byte) : (s.latch op).outEpoch = s.outEpoch := rfl
@[simp] theorem State.latch_freeCount (s : State) (op : Byte) : (s.latch op).freeCount = s.freeCount := rfl
@[simp] theorem State.latch_host (s : State) (op : Byte) : (s.latch op).host = s.host := rfl
@[simp] theorem State.latch_rdata (s : State) (op : Byte) : (s.latch op).rdata = s.rdata := rfl

/-! ### `State.append` -/

@[simp] theorem State.append_par (s : State) (b : Byte) : (s.append b).par = s.par := rfl
@[simp] theorem State.append_cmd (s : State) (b : Byte) : (s.append b).cmd = s.cmd := rfl
@[simp] theorem State.append_status (s : State) (b : Byte) : (s.append b).status = s.status := rfl
@[simp] theorem State.append_kind (s : State) (b : Byte) : (s.append b).kind = s.kind := rfl
@[simp] theorem State.append_wsize (s : State) (b : Byte) : (s.append b).wsize = s.wsize := rfl
@[simp] theorem State.append_lsize (s : State) (b : Byte) : (s.append b).lsize = s.lsize := rfl
@[simp] theorem State.append_inLen (s : State) (b : Byte) : (s.append b).inLen = s.inLen := rfl
@[simp] theorem State.append_outLen (s : State) (b : Byte) : (s.append b).outLen = s.outLen + 1 := rfl
@[simp] theorem State.append_arg0 (s : State) (b : Byte) : (s.append b).arg0 = s.arg0 := rfl
@[simp] theorem State.append_res0 (s : State) (b : Byte) : (s.append b).res0 = s.res0 := rfl
@[simp] theorem State.append_res1 (s : State) (b : Byte) : (s.append b).res1 = s.res1 := rfl
@[simp] theorem State.append_res2 (s : State) (b : Byte) : (s.append b).res2 = s.res2 := rfl
@[simp] theorem State.append_inBuf (s : State) (b : Byte) : (s.append b).inBuf = s.inBuf := rfl
@[simp] theorem State.append_outBuf (s : State) (b : Byte) : (s.append b).outBuf = s.outBuf.set s.outLen b := rfl
@[simp] theorem State.append_work (s : State) (b : Byte) : (s.append b).work = s.work := rfl
@[simp] theorem State.append_inEpoch (s : State) (b : Byte) : (s.append b).inEpoch = s.inEpoch := rfl
@[simp] theorem State.append_outEpoch (s : State) (b : Byte) : (s.append b).outEpoch = s.outEpoch := rfl
@[simp] theorem State.append_freeCount (s : State) (b : Byte) : (s.append b).freeCount = s.freeCount := rfl
@[simp] theorem State.append_host (s : State) (b : Byte) : (s.append b).host = s.host := rfl
@[simp] theorem State.append_rdata (s : State) (b : Byte) : (s.append b).rdata = s.rdata := rfl

/-! ### `State.fail` -/

@[simp] theorem State.fail_par (s : State) (k : ErrKind) : (s.fail k).par = s.par := rfl
@[simp] theorem State.fail_cmd (s : State) (k : ErrKind) : (s.fail k).cmd = s.cmd := rfl
@[simp] theorem State.fail_status (s : State) (k : ErrKind) : (s.fail k).status = .error := rfl
@[simp] theorem State.fail_kind (s : State) (k : ErrKind) : (s.fail k).kind = some k := rfl
@[simp] theorem State.fail_wsize (s : State) (k : ErrKind) : (s.fail k).wsize = s.wsize := rfl
@[simp] theorem State.fail_lsize (s : State) (k : ErrKind) : (s.fail k).lsize = s.lsize := rfl
@[simp] theorem State.fail_inLen (s : State) (k : ErrKind) : (s.fail k).inLen = s.inLen := rfl
@[simp] theorem State.fail_outLen (s : State) (k : ErrKind) : (s.fail k).outLen = s.outLen := rfl
@[simp] theorem State.fail_arg0 (s : State) (k : ErrKind) : (s.fail k).arg0 = s.arg0 := rfl
@[simp] theorem State.fail_res0 (s : State) (k : ErrKind) : (s.fail k).res0 = s.res0 := rfl
@[simp] theorem State.fail_res1 (s : State) (k : ErrKind) : (s.fail k).res1 = s.res1 := rfl
@[simp] theorem State.fail_res2 (s : State) (k : ErrKind) : (s.fail k).res2 = s.res2 := rfl
@[simp] theorem State.fail_inBuf (s : State) (k : ErrKind) : (s.fail k).inBuf = s.inBuf := rfl
@[simp] theorem State.fail_outBuf (s : State) (k : ErrKind) : (s.fail k).outBuf = s.outBuf := rfl
@[simp] theorem State.fail_work (s : State) (k : ErrKind) : (s.fail k).work = s.work := rfl
@[simp] theorem State.fail_inEpoch (s : State) (k : ErrKind) : (s.fail k).inEpoch = s.inEpoch := rfl
@[simp] theorem State.fail_outEpoch (s : State) (k : ErrKind) : (s.fail k).outEpoch = s.outEpoch := rfl
@[simp] theorem State.fail_freeCount (s : State) (k : ErrKind) : (s.fail k).freeCount = s.freeCount := rfl
@[simp] theorem State.fail_host (s : State) (k : ErrKind) : (s.fail k).host = s.host := rfl
@[simp] theorem State.fail_rdata (s : State) (k : ErrKind) : (s.fail k).rdata = s.rdata := rfl

/-! ### `State.advance` -/

@[simp] theorem State.advance_par (s : State) (n : Nat) : (s.advance n).par = s.par := rfl
@[simp] theorem State.advance_cmd (s : State) (n : Nat) : (s.advance n).cmd = s.cmd := rfl
@[simp] theorem State.advance_status (s : State) (n : Nat) : (s.advance n).status = s.status := rfl
@[simp] theorem State.advance_kind (s : State) (n : Nat) : (s.advance n).kind = s.kind := rfl
@[simp] theorem State.advance_wsize (s : State) (n : Nat) : (s.advance n).wsize = s.wsize := rfl
@[simp] theorem State.advance_lsize (s : State) (n : Nat) : (s.advance n).lsize = s.lsize := rfl
@[simp] theorem State.advance_inLen (s : State) (n : Nat) : (s.advance n).inLen = s.inLen := rfl
@[simp] theorem State.advance_outLen (s : State) (n : Nat) : (s.advance n).outLen = s.outLen := rfl
@[simp] theorem State.advance_arg0 (s : State) (n : Nat) : (s.advance n).arg0 = s.arg0 := rfl
@[simp] theorem State.advance_res0 (s : State) (n : Nat) : (s.advance n).res0 = s.res0 := rfl
@[simp] theorem State.advance_res1 (s : State) (n : Nat) : (s.advance n).res1 = s.res1 := rfl
@[simp] theorem State.advance_res2 (s : State) (n : Nat) : (s.advance n).res2 = s.res2 := rfl
@[simp] theorem State.advance_inBuf (s : State) (n : Nat) : (s.advance n).inBuf = s.inBuf := rfl
@[simp] theorem State.advance_outBuf (s : State) (n : Nat) : (s.advance n).outBuf = s.outBuf := rfl
@[simp] theorem State.advance_work (s : State) (n : Nat) :
    (s.advance n).work = { s.work with pos := s.work.pos + n } := rfl
@[simp] theorem State.advance_inEpoch (s : State) (n : Nat) : (s.advance n).inEpoch = s.inEpoch := rfl
@[simp] theorem State.advance_outEpoch (s : State) (n : Nat) : (s.advance n).outEpoch = s.outEpoch := rfl
@[simp] theorem State.advance_freeCount (s : State) (n : Nat) : (s.advance n).freeCount = s.freeCount := rfl
@[simp] theorem State.advance_host (s : State) (n : Nat) : (s.advance n).host = s.host := rfl
@[simp] theorem State.advance_rdata (s : State) (n : Nat) : (s.advance n).rdata = s.rdata := rfl

/-! ### `State.advanceVarint` -/

@[simp] theorem State.advanceVarint_par (s : State) (n : Nat) : (s.advanceVarint n).par = s.par := rfl
@[simp] theorem State.advanceVarint_cmd (s : State) (n : Nat) : (s.advanceVarint n).cmd = s.cmd := rfl
@[simp] theorem State.advanceVarint_status (s : State) (n : Nat) : (s.advanceVarint n).status = s.status := rfl
@[simp] theorem State.advanceVarint_kind (s : State) (n : Nat) : (s.advanceVarint n).kind = s.kind := rfl
@[simp] theorem State.advanceVarint_wsize (s : State) (n : Nat) : (s.advanceVarint n).wsize = s.wsize := rfl
@[simp] theorem State.advanceVarint_lsize (s : State) (n : Nat) : (s.advanceVarint n).lsize = s.lsize := rfl
@[simp] theorem State.advanceVarint_inLen (s : State) (n : Nat) : (s.advanceVarint n).inLen = s.inLen := rfl
@[simp] theorem State.advanceVarint_outLen (s : State) (n : Nat) : (s.advanceVarint n).outLen = s.outLen := rfl
@[simp] theorem State.advanceVarint_arg0 (s : State) (n : Nat) : (s.advanceVarint n).arg0 = s.arg0 := rfl
@[simp] theorem State.advanceVarint_res0 (s : State) (n : Nat) : (s.advanceVarint n).res0 = s.res0 := rfl
@[simp] theorem State.advanceVarint_res1 (s : State) (n : Nat) : (s.advanceVarint n).res1 = s.res1 := rfl
@[simp] theorem State.advanceVarint_res2 (s : State) (n : Nat) : (s.advanceVarint n).res2 = s.res2 := rfl
@[simp] theorem State.advanceVarint_inBuf (s : State) (n : Nat) : (s.advanceVarint n).inBuf = s.inBuf := rfl
@[simp] theorem State.advanceVarint_outBuf (s : State) (n : Nat) : (s.advanceVarint n).outBuf = s.outBuf := rfl
@[simp] theorem State.advanceVarint_work (s : State) (n : Nat) :
    (s.advanceVarint n).work = { s.work with vOff := s.work.vOff + n } := rfl
@[simp] theorem State.advanceVarint_inEpoch (s : State) (n : Nat) : (s.advanceVarint n).inEpoch = s.inEpoch := rfl
@[simp] theorem State.advanceVarint_outEpoch (s : State) (n : Nat) : (s.advanceVarint n).outEpoch = s.outEpoch := rfl
@[simp] theorem State.advanceVarint_freeCount (s : State) (n : Nat) : (s.advanceVarint n).freeCount = s.freeCount := rfl
@[simp] theorem State.advanceVarint_host (s : State) (n : Nat) : (s.advanceVarint n).host = s.host := rfl
@[simp] theorem State.advanceVarint_rdata (s : State) (n : Nat) : (s.advanceVarint n).rdata = s.rdata := rfl

/-! ### `State.setToken` -/

@[simp] theorem State.setToken_par (s : State) (d l : Nat) (x : Option Byte) : (s.setToken d l x).par = s.par := rfl
@[simp] theorem State.setToken_cmd (s : State) (d l : Nat) (x : Option Byte) : (s.setToken d l x).cmd = s.cmd := rfl
@[simp] theorem State.setToken_status (s : State) (d l : Nat) (x : Option Byte) :
    (s.setToken d l x).status = s.status := rfl
@[simp] theorem State.setToken_kind (s : State) (d l : Nat) (x : Option Byte) : (s.setToken d l x).kind = s.kind := rfl
@[simp] theorem State.setToken_wsize (s : State) (d l : Nat) (x : Option Byte) :
    (s.setToken d l x).wsize = s.wsize := rfl
@[simp] theorem State.setToken_lsize (s : State) (d l : Nat) (x : Option Byte) :
    (s.setToken d l x).lsize = s.lsize := rfl
@[simp] theorem State.setToken_inLen (s : State) (d l : Nat) (x : Option Byte) :
    (s.setToken d l x).inLen = s.inLen := rfl
@[simp] theorem State.setToken_outLen (s : State) (d l : Nat) (x : Option Byte) :
    (s.setToken d l x).outLen = s.outLen := rfl
@[simp] theorem State.setToken_arg0 (s : State) (d l : Nat) (x : Option Byte) : (s.setToken d l x).arg0 = s.arg0 := rfl
@[simp] theorem State.setToken_res0 (s : State) (d l : Nat) (x : Option Byte) : (s.setToken d l x).res0 = s.res0 := rfl
@[simp] theorem State.setToken_res1 (s : State) (d l : Nat) (x : Option Byte) : (s.setToken d l x).res1 = s.res1 := rfl
@[simp] theorem State.setToken_res2 (s : State) (d l : Nat) (x : Option Byte) : (s.setToken d l x).res2 = s.res2 := rfl
@[simp] theorem State.setToken_inBuf (s : State) (d l : Nat) (x : Option Byte) :
    (s.setToken d l x).inBuf = s.inBuf := rfl
@[simp] theorem State.setToken_outBuf (s : State) (d l : Nat) (x : Option Byte) :
    (s.setToken d l x).outBuf = s.outBuf := rfl
@[simp] theorem State.setToken_work (s : State) (d l : Nat) (x : Option Byte) :
    (s.setToken d l x).work = { s.work with tDist := d, tLen := l, tNext := x } := rfl
@[simp] theorem State.setToken_inEpoch (s : State) (d l : Nat) (x : Option Byte) :
    (s.setToken d l x).inEpoch = s.inEpoch := rfl
@[simp] theorem State.setToken_outEpoch (s : State) (d l : Nat) (x : Option Byte) :
    (s.setToken d l x).outEpoch = s.outEpoch := rfl
@[simp] theorem State.setToken_freeCount (s : State) (d l : Nat) (x : Option Byte) :
    (s.setToken d l x).freeCount = s.freeCount := rfl
@[simp] theorem State.setToken_host (s : State) (d l : Nat) (x : Option Byte) : (s.setToken d l x).host = s.host := rfl
@[simp] theorem State.setToken_rdata (s : State) (d l : Nat) (x : Option Byte) :
    (s.setToken d l x).rdata = s.rdata := rfl

/-! ### `State.setCur` -/

@[simp] theorem State.setCur_par (s : State) (p : Phrase) : (s.setCur p).par = s.par := rfl
@[simp] theorem State.setCur_cmd (s : State) (p : Phrase) : (s.setCur p).cmd = s.cmd := rfl
@[simp] theorem State.setCur_status (s : State) (p : Phrase) : (s.setCur p).status = s.status := rfl
@[simp] theorem State.setCur_kind (s : State) (p : Phrase) : (s.setCur p).kind = s.kind := rfl
@[simp] theorem State.setCur_wsize (s : State) (p : Phrase) : (s.setCur p).wsize = s.wsize := rfl
@[simp] theorem State.setCur_lsize (s : State) (p : Phrase) : (s.setCur p).lsize = s.lsize := rfl
@[simp] theorem State.setCur_inLen (s : State) (p : Phrase) : (s.setCur p).inLen = s.inLen := rfl
@[simp] theorem State.setCur_outLen (s : State) (p : Phrase) : (s.setCur p).outLen = s.outLen := rfl
@[simp] theorem State.setCur_arg0 (s : State) (p : Phrase) : (s.setCur p).arg0 = s.arg0 := rfl
@[simp] theorem State.setCur_res0 (s : State) (p : Phrase) : (s.setCur p).res0 = s.res0 := rfl
@[simp] theorem State.setCur_res1 (s : State) (p : Phrase) : (s.setCur p).res1 = s.res1 := rfl
@[simp] theorem State.setCur_res2 (s : State) (p : Phrase) : (s.setCur p).res2 = s.res2 := rfl
@[simp] theorem State.setCur_inBuf (s : State) (p : Phrase) : (s.setCur p).inBuf = s.inBuf := rfl
@[simp] theorem State.setCur_outBuf (s : State) (p : Phrase) : (s.setCur p).outBuf = s.outBuf := rfl
@[simp] theorem State.setCur_work (s : State) (p : Phrase) : (s.setCur p).work = { s.work with cur := p } := rfl
@[simp] theorem State.setCur_inEpoch (s : State) (p : Phrase) : (s.setCur p).inEpoch = s.inEpoch := rfl
@[simp] theorem State.setCur_outEpoch (s : State) (p : Phrase) : (s.setCur p).outEpoch = s.outEpoch := rfl
@[simp] theorem State.setCur_freeCount (s : State) (p : Phrase) : (s.setCur p).freeCount = s.freeCount := rfl
@[simp] theorem State.setCur_host (s : State) (p : Phrase) : (s.setCur p).host = s.host := rfl
@[simp] theorem State.setCur_rdata (s : State) (p : Phrase) : (s.setCur p).rdata = s.rdata := rfl

/-! ### `State.setPrev` -/

@[simp] theorem State.setPrev_par (s : State) (p : Phrase) : (s.setPrev p).par = s.par := rfl
@[simp] theorem State.setPrev_cmd (s : State) (p : Phrase) : (s.setPrev p).cmd = s.cmd := rfl
@[simp] theorem State.setPrev_status (s : State) (p : Phrase) : (s.setPrev p).status = s.status := rfl
@[simp] theorem State.setPrev_kind (s : State) (p : Phrase) : (s.setPrev p).kind = s.kind := rfl
@[simp] theorem State.setPrev_wsize (s : State) (p : Phrase) : (s.setPrev p).wsize = s.wsize := rfl
@[simp] theorem State.setPrev_lsize (s : State) (p : Phrase) : (s.setPrev p).lsize = s.lsize := rfl
@[simp] theorem State.setPrev_inLen (s : State) (p : Phrase) : (s.setPrev p).inLen = s.inLen := rfl
@[simp] theorem State.setPrev_outLen (s : State) (p : Phrase) : (s.setPrev p).outLen = s.outLen := rfl
@[simp] theorem State.setPrev_arg0 (s : State) (p : Phrase) : (s.setPrev p).arg0 = s.arg0 := rfl
@[simp] theorem State.setPrev_res0 (s : State) (p : Phrase) : (s.setPrev p).res0 = s.res0 := rfl
@[simp] theorem State.setPrev_res1 (s : State) (p : Phrase) : (s.setPrev p).res1 = s.res1 := rfl
@[simp] theorem State.setPrev_res2 (s : State) (p : Phrase) : (s.setPrev p).res2 = s.res2 := rfl
@[simp] theorem State.setPrev_inBuf (s : State) (p : Phrase) : (s.setPrev p).inBuf = s.inBuf := rfl
@[simp] theorem State.setPrev_outBuf (s : State) (p : Phrase) : (s.setPrev p).outBuf = s.outBuf := rfl
@[simp] theorem State.setPrev_work (s : State) (p : Phrase) : (s.setPrev p).work = { s.work with prev := p } := rfl
@[simp] theorem State.setPrev_inEpoch (s : State) (p : Phrase) : (s.setPrev p).inEpoch = s.inEpoch := rfl
@[simp] theorem State.setPrev_outEpoch (s : State) (p : Phrase) : (s.setPrev p).outEpoch = s.outEpoch := rfl
@[simp] theorem State.setPrev_freeCount (s : State) (p : Phrase) : (s.setPrev p).freeCount = s.freeCount := rfl
@[simp] theorem State.setPrev_host (s : State) (p : Phrase) : (s.setPrev p).host = s.host := rfl
@[simp] theorem State.setPrev_rdata (s : State) (p : Phrase) : (s.setPrev p).rdata = s.rdata := rfl

end Sys2Proof.Machine
end

