-- ==== Sys2Proof/Laws/Memory.lean ====
section
/-! SUPPORT. Laws of the byte memories and the dictionaries: read after write, the canonical form, lookups. -/

namespace Sys2Proof.Machine

/-! ### Byte memories -/

@[simp] theorem Mem.get?_nil (a : Nat) : Mem.get? [] a = none := rfl

@[simp] theorem Mem.get?_set_self (m : Mem) (a : Nat) (b : Byte) : (m.set a b).get? a = some b := by
  induction m with
  | nil => simp [Mem.set, Mem.get?]
  | cons e rest ih =>
    obtain ⟨x, c⟩ := e
    unfold Mem.set
    split
    · simp [Mem.get?]
    · split
      · simp [Mem.get?]
      · have : x ≠ a := by omega
        simp [Mem.get?, this, ih]

theorem Mem.get?_set_ne (m : Mem) {a a' : Nat} (b : Byte) (h : a' ≠ a) : (m.set a b).get? a' = m.get? a' := by
  induction m with
  | nil => simp [Mem.set, Mem.get?, h.symm]
  | cons e rest ih =>
    obtain ⟨x, c⟩ := e
    unfold Mem.set
    split
    · simp [Mem.get?, h.symm]
    · split
      · subst_vars
        simp [Mem.get?, h.symm]
      · simp [Mem.get?, ih]

theorem Mem.get?_set (m : Mem) (a a' : Nat) (b : Byte) :
    (m.set a b).get? a' = if a' = a then some b else m.get? a' := by
  split
  · subst_vars; simp
  · exact Mem.get?_set_ne m b ‹_›

/-- Every entry of a written memory is the new one or an old one. -/
theorem Mem.mem_set {m : Mem} {a : Nat} {b : Byte} {e : Host.Cell} (h : e ∈ m.set a b) : e = (a, b) ∨ e ∈ m := by
  induction m with
  | nil => simpa [Mem.set] using h
  | cons f rest ih =>
    obtain ⟨x, c⟩ := f
    unfold Mem.set at h
    split at h
    · simpa using h
    · split at h
      · rcases List.mem_cons.mp h with h | h
        · exact .inl h
        · exact .inr (List.mem_cons_of_mem _ h)
      · rcases List.mem_cons.mp h with h | h
        · exact .inr (h ▸ List.mem_cons_self)
        · exact (ih h).imp_right (List.mem_cons_of_mem _)

/-- A write keeps the canonical form. -/
theorem Mem.set_wf {m : Mem} (a : Nat) (b : Byte) (h : m.wf) : (m.set a b).wf := by
  induction m with
  | nil => simp [Mem.set, Mem.wf]
  | cons e rest ih =>
    obtain ⟨x, c⟩ := e
    obtain ⟨hx, hrest⟩ := List.pairwise_cons.mp h
    unfold Mem.set
    split
    · rename_i hlt
      refine List.pairwise_cons.mpr ⟨fun f hf => ?_, h⟩
      rcases List.mem_cons.mp hf with rfl | hf
      · exact hlt
      · exact Nat.lt_trans hlt (hx f hf)
    · split
      · subst_vars
        exact List.pairwise_cons.mpr ⟨hx, hrest⟩
      · refine List.pairwise_cons.mpr ⟨fun f hf => ?_, ih hrest⟩
        rcases Mem.mem_set hf with rfl | hf
        · simp only
          omega
        · exact hx f hf

@[simp] theorem Mem.setSeq_nil (m : Mem) (a : Nat) : m.setSeq a [] = m := rfl

@[simp] theorem Mem.setSeq_cons (m : Mem) (a : Nat) (b : Byte) (bs : List Byte) :
    m.setSeq a (b :: bs) = (m.set a b).setSeq (a + 1) bs := rfl

/-- A sequence of writes keeps the canonical form. -/
theorem Mem.setSeq_wf {m : Mem} (a : Nat) (bs : List Byte) (h : m.wf) : (m.setSeq a bs).wf := by
  induction bs generalizing m a with
  | nil => exact h
  | cons b bs ih => exact ih _ (Mem.set_wf a b h)

theorem Mem.setSeq_append (m : Mem) (a : Nat) (bs cs : List Byte) :
    m.setSeq a (bs ++ cs) = (m.setSeq a bs).setSeq (a + bs.length) cs := by
  induction bs generalizing m a with
  | nil => rfl
  | cons b bs ih => simp [ih, Nat.add_assoc, Nat.add_comm 1]

/-- Reading after a sequence of writes: the written byte inside the range, the old one outside. -/
theorem Mem.get?_setSeq (m : Mem) (a x : Nat) (bs : List Byte) :
    (m.setSeq a bs).get? x = if a ≤ x ∧ x < a + bs.length then bs[x - a]? else m.get? x := by
  induction bs generalizing m a with
  | nil => simp
  | cons b bs ih =>
    rw [Mem.setSeq_cons, ih, Mem.get?_set]
    by_cases hx : x = a
    · subst hx
      simp
    · by_cases hr : a + 1 ≤ x ∧ x < a + 1 + bs.length
      · have h2 : a ≤ x ∧ x < a + (b :: bs).length := by simp only [List.length_cons]; omega
        have h3 : x - a = (x - (a + 1)) + 1 := by omega
        simp only [hr, h2, h3, and_self, if_true, List.getElem?_cons_succ]
      · have h2 : ¬ (a ≤ x ∧ x < a + (b :: bs).length) := by simp only [List.length_cons]; omega
        simp only [hr, h2, hx, if_false]

/-! ### Dictionaries -/

section
variable {κ ν : Type} [DecidableEq κ]

@[simp] theorem Dict.get?_nil (k : κ) : Dict.get? ([] : List (κ × ν)) k = none := rfl

theorem Dict.get?_filter_ne (d : List (κ × ν)) {k k' : κ} (h : k' ≠ k) :
    Dict.get? (d.filter (fun e => e.1 ≠ k)) k' = Dict.get? d k' := by
  induction d with
  | nil => rfl
  | cons e rest ih =>
    obtain ⟨x, v⟩ := e
    by_cases hx : x = k
    · subst hx
      simpa [Dict.get?, h.symm] using ih
    · by_cases hk : x = k'
      · simp [hk, h, Dict.get?]
      · simpa [List.filter_cons, hx, Dict.get?, hk] using ih

@[simp] theorem Dict.get?_insert_self (d : List (κ × ν)) (k : κ) (v : ν) :
    Dict.get? (Dict.insert d k v) k = some v := by
  simp [Dict.insert, Dict.get?]

theorem Dict.get?_insert_ne (d : List (κ × ν)) {k k' : κ} (v : ν) (h : k' ≠ k) :
    Dict.get? (Dict.insert d k v) k' = Dict.get? d k' := by
  unfold Dict.insert
  rw [Dict.get?, if_neg h.symm]
  exact Dict.get?_filter_ne d h

theorem Dict.get?_eq_none_iff (d : List (κ × ν)) (k : κ) : Dict.get? d k = none ↔ ∀ e ∈ d, e.1 ≠ k := by
  induction d with
  | nil => simp
  | cons e rest ih =>
    obtain ⟨x, v⟩ := e
    by_cases hx : x = k <;> simp [Dict.get?, hx, ih]

theorem Dict.mem_of_get? {d : List (κ × ν)} {k : κ} {v : ν} (h : Dict.get? d k = some v) : (k, v) ∈ d := by
  induction d with
  | nil => simp at h
  | cons e rest ih =>
    obtain ⟨x, w⟩ := e
    unfold Dict.get? at h
    split at h
    · simp_all
    · exact List.mem_cons_of_mem _ (ih h)

/-- A new key grows the dictionary by exactly one entry. -/
theorem Dict.insert_of_get?_none {d : List (κ × ν)} {k : κ} (v : ν) (h : Dict.get? d k = none) :
    Dict.insert d k v = (k, v) :: d := by
  have hk := (Dict.get?_eq_none_iff d k).mp h
  unfold Dict.insert
  rw [List.filter_eq_self.mpr]
  intro e he
  simpa using hk e he

end

/-- The seeds of LZWD: code `c` is known exactly when it is below 256, and stands for the byte `c` (R44). -/
theorem get?_seeds_range (n lo k : Nat) :
    Dict.get? ((List.range' lo n).map fun c => (c, [BitVec.ofNat 8 c])) k =
      if lo ≤ k ∧ k < lo + n then some [BitVec.ofNat 8 k] else none := by
  induction n generalizing lo with
  | zero =>
    simp
  | succ n ih =>
    rw [List.range'_succ, List.map_cons, Dict.get?]
    by_cases hk : lo = k
    · subst hk
      simp
    · rw [if_neg hk, ih]
      by_cases hr : lo + 1 ≤ k ∧ k < lo + 1 + n
      · rw [if_pos hr, if_pos (by omega)]
      · rw [if_neg hr, if_neg (by omega)]

theorem get?_seedsDecode (k : Nat) :
    Dict.get? seedsDecode k = if k < 256 then some [BitVec.ofNat 8 k] else none := by
  have h := get?_seeds_range 256 0 k
  simpa [seedsDecode, Config.lzwSeed, List.range_eq_range'] using h

theorem length_seedsEncode : seedsEncode.length = 256 := by simp [seedsEncode, Config.lzwSeed]

theorem length_seedsDecode : seedsDecode.length = 256 := by simp [seedsDecode, Config.lzwSeed]

/-! ### Memory as the engine reads it -/

theorem State.outByte_append (s : State) (b : Byte) (a : Nat) :
    (s.append b).outByte a = if a = s.outLen then b else s.outByte a := by
  simp only [State.outByte, State.append_outBuf, State.append_outEpoch, Mem.get?_set]
  split <;> simp

@[simp] theorem State.length_output (s : State) : s.output.length = s.outLen := by simp [State.output]

@[simp] theorem State.length_inFrom (s : State) (p : Nat) : (s.inFrom p).length = s.inLen - p := by
  simp [State.inFrom]

@[simp] theorem State.length_input (s : State) : s.input.length = s.inLen := by simp [State.input]

theorem State.output_append (s : State) (b : Byte) : (s.append b).output = s.output ++ [b] := by
  have hlast : (s.append b).outByte s.outLen = b := by rw [State.outByte_append, if_pos rfl]
  have hold : (List.range s.outLen).map (s.append b).outByte = s.output :=
    List.map_congr_left fun a ha => by
      rw [State.outByte_append, if_neg (Nat.ne_of_lt (List.mem_range.mp ha))]
  rw [State.output, State.append_outLen, List.range_succ, List.map_append, hold, List.map_singleton, hlast]

end Sys2Proof.Machine
end

