-- ==== Sys2Proof/Laws/Ops.lean ====
section
/-! SUPPORT. One lemma per shared operation that says all it can do: the appends, error completion, success, command
start, issue, loops. -/

namespace Sys2Proof.Machine

/-! ### Appends -/

/-- `s` after `bs` is appended to `OUT`. -/
def State.appendSeq (s : State) : List Byte → State
  | [] => s
  | b :: bs => (s.append b).appendSeq bs

@[simp] theorem State.appendSeq_nil (s : State) : s.appendSeq [] = s := rfl

@[simp] theorem State.appendSeq_cons (s : State) (b : Byte) (bs : List Byte) :
    s.appendSeq (b :: bs) = (s.append b).appendSeq bs := rfl

/-- Appends change `OUT` and `OUT_LEN` only. -/
theorem State.appendSeq_eq (s : State) (bs : List Byte) :
    s.appendSeq bs = { s with outBuf := s.outBuf.setSeq s.outLen bs, outLen := s.outLen + bs.length } := by
  induction bs generalizing s with
  | nil => rfl
  | cons b bs ih => simp [ih, State.append, Nat.add_assoc, Nat.add_comm 1]

theorem State.appendSeq_append (s : State) (bs cs : List Byte) :
    s.appendSeq (bs ++ cs) = (s.appendSeq bs).appendSeq cs := by
  induction bs generalizing s with
  | nil => rfl
  | cons b bs ih => simp [ih]

theorem State.output_appendSeq (s : State) (bs : List Byte) : (s.appendSeq bs).output = s.output ++ bs := by
  induction bs generalizing s with
  | nil => simp
  | cons b bs ih => simp [ih, State.output_append]

/-- The test of `Emit` fires at an append of `n` bytes: `OUT_LEN` reaches `OUT_CAP` on the way (R65). -/
def State.overflowsBy (s : State) (n : Nat) : Prop := ∃ c, s.par.outCap = some c ∧ s.outLen ≤ c ∧ c < s.outLen + n

theorem emit_of_full {s : State} {c : Nat} (b : Byte) (h : s.par.outCap = some c) (hc : s.outLen = c) :
    emit b s = .error .overflow := by
  simp [emit, h, hc]

theorem emit_of_not_full {s : State} (b : Byte) (h : s.par.outCap ≠ some s.outLen) : emit b s = .ok (s.append b) := by
  simp [emit, h]

/-- `EmitSeq` appends all its bytes or raises `Overflow` (R65, R66). -/
theorem emitSeq_spec (bs : List Byte) (s : State) :
    (s.overflowsBy bs.length ∧ emitSeq bs s = .error .overflow) ∨
      (¬ s.overflowsBy bs.length ∧ emitSeq bs s = .ok (s.appendSeq bs)) := by
  induction bs generalizing s with
  | nil => exact .inr ⟨fun ⟨c, _, h1, h2⟩ => absurd h2 (by simpa using h1), rfl⟩
  | cons b bs ih =>
    by_cases hf : s.par.outCap = some s.outLen
    · exact .inl ⟨⟨s.outLen, hf, Nat.le_refl _, by simp⟩, by simp [emitSeq, emit, hf]⟩
    · have hiff : s.overflowsBy (b :: bs).length ↔ (s.append b).overflowsBy bs.length := by
        constructor
        · rintro ⟨c, h1, h2, h3⟩
          have : s.outLen ≠ c := fun h => hf (h ▸ h1)
          refine ⟨c, h1, ?_, ?_⟩ <;> simp only [State.append_outLen, List.length_cons] at * <;> omega
        · rintro ⟨c, h1, h2, h3⟩
          refine ⟨c, h1, ?_, ?_⟩ <;> simp only [State.append_outLen, List.length_cons] at * <;> omega
      rw [hiff]
      simpa [emitSeq, emit_of_not_full b hf] using ih (s.append b)

theorem emitSeq_ok {bs : List Byte} {s t : State} (h : emitSeq bs s = .ok t) : t = s.appendSeq bs := by
  rcases emitSeq_spec bs s with ⟨_, h'⟩ | ⟨_, h'⟩ <;> simp_all

theorem emitSeq_error {bs : List Byte} {s : State} {k : ErrKind} (h : emitSeq bs s = .error k) :
    k = .overflow ∧ s.overflowsBy bs.length := by
  rcases emitSeq_spec bs s with ⟨ho, h'⟩ | ⟨_, h'⟩ <;> simp_all

theorem emitSeq_of_room {bs : List Byte} {s : State} (h : s.roomFor (s.outLen + bs.length)) :
    emitSeq bs s = .ok (s.appendSeq bs) := by
  rcases emitSeq_spec bs s with ⟨⟨c, h1, _, h3⟩, _⟩ | ⟨_, h'⟩
  · exact absurd (h c h1) (by omega)
  · exact h'

/-- The copy of LZ77D, when it succeeds, has appended `count` bytes. -/
theorem copyOut_ok {count src : Nat} {s t : State} (h : copyOut count src s = .ok t) :
    ∃ bs : List Byte, bs.length = count ∧ t = s.appendSeq bs := by
  induction count generalizing src s with
  | zero => exact ⟨[], rfl, by simpa [copyOut] using h.symm⟩
  | succ n ih =>
    unfold copyOut emit at h
    split at h
    · cases h
    · rename_i heq
      split at heq
      · cases heq
      · cases heq
        obtain ⟨bs, hl, ht⟩ := ih h
        exact ⟨s.outByte src :: bs, by simp [hl], ht⟩

/-- The copy of LZ77D raises nothing but `Overflow` (R286). -/
theorem copyOut_error {count src : Nat} {s : State} {k : ErrKind} (h : copyOut count src s = .error k) :
    k = .overflow := by
  induction count generalizing src s with
  | zero => cases h
  | succ n ih =>
    unfold copyOut emit at h
    split at h
    · rename_i heq
      split at heq <;> simp_all
    · exact ih h

/-! ### Error completion and success -/

@[simp] theorem State.clearOwned_status (s : State) : s.clearOwned.status = s.status := by
  unfold State.clearOwned; split <;> rfl

@[simp] theorem State.clearOwned_kind (s : State) : s.clearOwned.kind = s.kind := by
  unfold State.clearOwned; split <;> rfl

@[simp] theorem State.clearOwned_cmd (s : State) : s.clearOwned.cmd = s.cmd := by
  unfold State.clearOwned; split <;> rfl

@[simp] theorem State.clearOwned_par (s : State) : s.clearOwned.par = s.par := by
  unfold State.clearOwned; split <;> rfl

@[simp] theorem State.clearOwned_inBuf (s : State) : s.clearOwned.inBuf = s.inBuf := by
  unfold State.clearOwned; split <;> rfl

@[simp] theorem State.clearOwned_inEpoch (s : State) : s.clearOwned.inEpoch = s.inEpoch := by
  unfold State.clearOwned; split <;> rfl

@[simp] theorem State.loseOwnedResults_status (s : State) : s.loseOwnedResults.status = s.status := by
  unfold State.loseOwnedResults; split <;> rfl

@[simp] theorem State.loseOwnedResults_kind (s : State) : s.loseOwnedResults.kind = s.kind := by
  unfold State.loseOwnedResults; split <;> rfl

@[simp] theorem State.loseOwnedResults_cmd (s : State) : s.loseOwnedResults.cmd = s.cmd := by
  unfold State.loseOwnedResults; split <;> rfl

/-- The host's side is read off six fields and `IN`. -/
theorem KeepsHostSide.of_fields {s t : State} (h1 : t.par = s.par) (h2 : t.wsize = s.wsize) (h3 : t.lsize = s.lsize)
    (h4 : t.inLen = s.inLen) (h5 : t.arg0 = s.arg0) (h6 : t.host = s.host) (h7 : t.rdata = s.rdata)
    (h8 : t.inBuf = s.inBuf) (h9 : t.inEpoch = s.inEpoch) : KeepsHostSide s t :=
  ⟨h1, h2, h3, h4, h5, h6, h7, fun a => by unfold State.inByte; rw [h8, h9]⟩

theorem KeepsHostSide.refl (s : State) : KeepsHostSide s s := .of_fields rfl rfl rfl rfl rfl rfl rfl rfl rfl

theorem KeepsHostSide.trans {s t u : State} (h : KeepsHostSide s t) (h' : KeepsHostSide t u) : KeepsHostSide s u :=
  ⟨h'.par.trans h.par, h'.wsize.trans h.wsize, h'.lsize.trans h.lsize, h'.inLen.trans h.inLen,
    h'.arg0.trans h.arg0, h'.host.trans h.host, h'.rdata.trans h.rdata,
    fun a => (h'.inByte a).trans (h.inByte a)⟩

theorem KeepsHostSide.clearOwned (s : State) : KeepsHostSide s s.clearOwned := by
  unfold State.clearOwned; split <;> exact .of_fields rfl rfl rfl rfl rfl rfl rfl rfl rfl

theorem KeepsHostSide.loseOwnedResults (s : State) : KeepsHostSide s s.loseOwnedResults := by
  unfold State.loseOwnedResults; split <;> exact .of_fields rfl rfl rfl rfl rfl rfl rfl rfl rfl

theorem KeepsHostSide.discard (s : State) : KeepsHostSide s s.discard := .of_fields rfl rfl rfl rfl rfl rfl rfl rfl rfl

theorem KeepsHostSide.appendSeq (s : State) (bs : List Byte) : KeepsHostSide s (s.appendSeq bs) := by
  rw [State.appendSeq_eq]; exact .of_fields rfl rfl rfl rfl rfl rfl rfl rfl rfl

@[simp] theorem raise_status (k : ErrKind) (s : State) : (raise k s).status = .error := by simp [raise]

@[simp] theorem raise_kind (k : ErrKind) (s : State) : (raise k s).kind = some k := by simp [raise]

@[simp] theorem raise_cmd (k : ErrKind) (s : State) : (raise k s).cmd = s.cmd := by simp [raise]

/-- Error completion changes nothing the host owns (R287). -/
theorem raise_keepsHostSide (k : ErrKind) (s : State) : KeepsHostSide s (raise k s) :=
  (KeepsHostSide.of_fields rfl rfl rfl rfl rfl rfl rfl rfl rfl : KeepsHostSide s (s.fail k)).trans
    ((KeepsHostSide.clearOwned _).trans ((KeepsHostSide.loseOwnedResults _).trans (KeepsHostSide.discard _)))

/-- A command that owns `OUT` withdraws its output when it fails (R187, R287). -/
theorem raise_outLen (k : ErrKind) (s : State) : (raise k s).outLen = if ownsOut s.cmd then 0 else s.outLen := by
  unfold raise State.loseOwnedResults State.clearOwned
  split <;> split <;> simp_all

/-- A command that does not own `RES0` to `RES2` leaves them when it fails (R33, R287). -/
theorem raise_keepsResults (k : ErrKind) (s : State) (h : ownsResults s.cmd = false) : KeepsResults s (raise k s) := by
  unfold raise State.loseOwnedResults State.clearOwned
  split <;> split <;> simp_all <;> exact ⟨rfl, rfl, rfl⟩

/-- A command that does not own `OUT` leaves it when it fails (R287). -/
theorem raise_keepsOut (k : ErrKind) (s : State) (h : ownsOut s.cmd = false) : KeepsOut s (raise k s) := by
  unfold raise State.loseOwnedResults State.clearOwned
  split <;> split <;> simp_all <;> exact ⟨rfl, fun _ => rfl⟩

@[simp] theorem finish_status (s : State) : (finish s).status = .done := rfl
@[simp] theorem finish_kind (s : State) : (finish s).kind = s.kind := rfl
@[simp] theorem finish_cmd (s : State) : (finish s).cmd = s.cmd := rfl
@[simp] theorem finish_outLen (s : State) : (finish s).outLen = s.outLen := rfl
@[simp] theorem finish_output (s : State) : (finish s).output = s.output := rfl
@[simp] theorem finish_res0 (s : State) : (finish s).res0 = s.res0 := rfl
@[simp] theorem finish_res1 (s : State) : (finish s).res1 = s.res1 := rfl
@[simp] theorem finish_res2 (s : State) : (finish s).res2 = s.res2 := rfl

theorem finish_keepsHostSide (s : State) : KeepsHostSide s (finish s) := .of_fields rfl rfl rfl rfl rfl rfl rfl rfl rfl

theorem finish_keepsOut (s : State) : KeepsOut s (finish s) := ⟨rfl, fun _ => rfl⟩

/-- A part of a body that may raise either raises from `s` or goes on. -/
theorem orRaise_cases (s : State) (r : Except ErrKind State) (go : State → State) :
    (∃ k, r = .error k ∧ orRaise s r go = raise k s) ∨ (∃ t, r = .ok t ∧ orRaise s r go = go t) := by
  cases r with
  | error k => exact .inl ⟨k, rfl, rfl⟩
  | ok t => exact .inr ⟨t, rfl, rfl⟩

/-! ### Command start and issue -/

@[simp] theorem start_cmd (op : Byte) (s : State) : (start op s).cmd = op := by simp [start]
@[simp] theorem start_status (op : Byte) (s : State) : (start op s).status = .busy := by simp [start]
@[simp] theorem start_kind (op : Byte) (s : State) : (start op s).kind = none := by simp [start]
@[simp] theorem start_work (op : Byte) (s : State) : (start op s).work = startWork op s.arg0 s.work := rfl

/-- Command start changes nothing the host owns. -/
theorem start_keepsHostSide (op : Byte) (s : State) : KeepsHostSide s (start op s) :=
  (KeepsHostSide.of_fields rfl rfl rfl rfl rfl rfl rfl rfl rfl : KeepsHostSide s (s.latch op)).trans
    ((KeepsHostSide.clearOwned _).trans (.of_fields rfl rfl rfl rfl rfl rfl rfl rfl rfl))

/-- Command start empties `OUT` for the commands that own it (R28, R40). -/
theorem start_outLen (op : Byte) (s : State) : (start op s).outLen = if ownsOut op then 0 else s.outLen := by
  unfold start State.clearOwned
  split <;> simp_all

theorem start_keepsResults (op : Byte) (s : State) : KeepsResults s (start op s) := by
  unfold start State.clearOwned
  split <;> exact ⟨rfl, rfl, rfl⟩

theorem issue_of_not_busy {op : Byte} {body : State → State} {s : State} (h : s.status ≠ .busy) :
    issue op body s = .next (body (start op s)) := if_neg h

/-- A command that answers a next state was not issued while `BUSY`, and ran its body from its start (R260). -/
theorem issue_next {op : Byte} {body : State → State} {s t : State} (h : issue op body s = .next t) :
    s.status ≠ .busy ∧ t = body (start op s) := by
  unfold issue at h
  split at h
  · cases h
  · exact ⟨‹_›, by cases h; rfl⟩

/-- A stream unit that answers a next state ran inside a command that consumes it. -/
theorem asUnit_next {ops : List Byte} {effect : State → State} {s t : State} (h : asUnit ops effect s = .next t) :
    s.status = .busy ∧ s.cmd ∈ ops ∧ t = effect s := by
  unfold asUnit at h
  split at h
  · rename_i hs
    exact ⟨hs.1, hs.2, by cases h; rfl⟩
  · cases h

theorem asUnit_of_running {ops : List Byte} {effect : State → State} {s : State} (h : s.status = .busy)
    (h' : s.cmd ∈ ops) : asUnit ops effect s = .next (effect s) := if_pos ⟨h, h'⟩

/-! ### Loops -/

theorem runLoop_of_not_busy (iter : State → State) (n : Nat) {s : State} (h : s.status ≠ .busy) :
    runLoop iter n s = s := by
  cases n <;> simp [runLoop, h]

theorem runLoop_succ_of_busy (iter : State → State) (n : Nat) {s : State} (h : s.status = .busy) :
    runLoop iter (n + 1) s = runLoop iter n (iter s) := by
  simp [runLoop, h]

/-- What every iteration of a running command keeps, the whole loop keeps. -/
theorem runLoop_keeps (P : State → Prop) (iter : State → State)
    (hiter : ∀ s, P s → s.status = .busy → P (iter s)) (n : Nat) {s : State} (h : P s) : P (runLoop iter n s) := by
  induction n generalizing s with
  | zero => exact h
  | succ n ih =>
    unfold runLoop
    split
    · exact ih (hiter s h ‹_›)
    · exact h

/-- A loop whose iterations, while they stay `BUSY`, lower a measure that starts below its bound leaves `BUSY` (R261). -/
theorem runLoop_ends (P : State → Prop) (measure : State → Nat) (iter : State → State)
    (hiter : ∀ s, P s → s.status = .busy →
      (iter s).status = .busy → P (iter s) ∧ measure (iter s) < measure s)
    (n : Nat) {s : State} (h : P s) (hn : measure s < n) : (runLoop iter n s).status ≠ .busy := by
  induction n generalizing s with
  | zero => omega
  | succ n ih =>
    unfold runLoop
    split
    · by_cases hb : (iter s).status = .busy
      · obtain ⟨hp, hm⟩ := hiter s h ‹_› hb
        exact ih hp (by omega)
      · rw [runLoop_of_not_busy iter n hb]
        exact hb
    · assumption

theorem guardLen_of_ok {iter : State → State} {s : State} (h : s.inputOk) : guardLen iter s = iter s := by
  simp [guardLen, h]

theorem guardLen_of_tooLong {iter : State → State} {s : State} (h : s.inTooLong = true) :
    guardLen iter s = raise .illegalOperation s := by
  simp [guardLen, h]

/-! ### Dictionaries with one entry each -/

theorem OneEntryEach.insert {κ ν : Type} [DecidableEq κ] {d : List (κ × ν)} {k : κ} {v : ν} (h : OneEntryEach d)
    (hk : Dict.get? d k = none) (hv : ∀ e ∈ d, e.2 ≠ v) : OneEntryEach (Dict.insert d k v) := by
  rw [Dict.insert_of_get?_none v hk]
  refine ⟨List.nodup_cons.mpr ⟨fun hm => ?_, h.1⟩, List.nodup_cons.mpr ⟨fun hm => ?_, h.2⟩⟩
  · obtain ⟨e, he, hek⟩ := List.mem_map.mp hm
    exact (Dict.get?_eq_none_iff d k).mp hk e he hek
  · obtain ⟨e, he, hev⟩ := List.mem_map.mp hm
    exact hv e he hev

/-! ### The host's read of `OUT` -/

theorem readOut_of_lt {a : Nat} {s : State} (h : a < s.outLen) :
    readOut a s = { s with rdata := (s.outByte a).toNat } := by simp [readOut, h]

theorem readOut_of_le {a : Nat} {s : State} (h : s.outLen ≤ a) :
    ∃ (b : Byte) (n : Nat), readOut a s = { s with rdata := b.toNat, freeCount := n } :=
  ⟨_, _, if_neg (Nat.not_lt.mpr h)⟩

end Sys2Proof.Machine
end

