-- ==== Sys2Proof/Laws/PerInstr.lean ====
section
/-! SUPPORT. Statements for all instructions, one lemma per constructor. -/

namespace Sys2Proof.Laws

/-! ### `EncodedLength`: how many bytes an instruction takes (R91, R106) -/

/-- The length R106 gives a unit: a command and a varint byte 1, a token its two varints, its marker and its literal
if it has one, a pair its varint and its literal, a code word 2. -/
def EncodedLength.Statement (i : Instr) : Prop :=
  (encode i).length =
    match i with
    | .lz77tokNolit dist len => (encodeVarint dist).length + (encodeVarint len).length + 1
    | .lz77tokLit dist len _ => (encodeVarint dist).length + (encodeVarint len).length + 2
    | .lz77tokReserved dist len _ => (encodeVarint dist).length + (encodeVarint len).length + 1
    | .lz78pair index _ => (encodeVarint index).length + 1
    | .lzwcode _ => 2
    | _ => 1

theorem EncodedLength.venc : EncodedLength.Statement .venc := rfl
theorem EncodedLength.vdec : EncodedLength.Statement .vdec := rfl
theorem EncodedLength.matcher : EncodedLength.Statement .matcher := rfl
theorem EncodedLength.lz77c : EncodedLength.Statement .lz77c := rfl
theorem EncodedLength.lz77d : EncodedLength.Statement .lz77d := rfl
theorem EncodedLength.lz78c : EncodedLength.Statement .lz78c := rfl
theorem EncodedLength.lz78d : EncodedLength.Statement .lz78d := rfl
theorem EncodedLength.lzwc : EncodedLength.Statement .lzwc := rfl
theorem EncodedLength.lzwd : EncodedLength.Statement .lzwd := rfl
theorem EncodedLength.clr : EncodedLength.Statement .clr := rfl
theorem EncodedLength.illegal (op : Byte) : EncodedLength.Statement (.illegal op) := rfl
theorem EncodedLength.varintCont (g : Group) : EncodedLength.Statement (.varintCont g) := rfl
theorem EncodedLength.varintLast (g : Group) : EncodedLength.Statement (.varintLast g) := rfl
theorem EncodedLength.lz77tokNolit (dist len : Nat) : EncodedLength.Statement (.lz77tokNolit dist len) := by
  simp [EncodedLength.Statement, encode]
theorem EncodedLength.lz77tokLit (dist len : Nat) (lit : Byte) :
    EncodedLength.Statement (.lz77tokLit dist len lit) := by
  simp [EncodedLength.Statement, encode]
theorem EncodedLength.lz77tokReserved (dist len : Nat) (mark : Byte) :
    EncodedLength.Statement (.lz77tokReserved dist len mark) := by
  simp [EncodedLength.Statement, encode, Nat.add_assoc]
theorem EncodedLength.lz78pair (index : Nat) (lit : Byte) : EncodedLength.Statement (.lz78pair index lit) := by
  simp [EncodedLength.Statement, encode]
theorem EncodedLength.lzwcode (k : CodeWord) : EncodedLength.Statement (.lzwcode k) := by
  simp [EncodedLength.Statement, encode]

end Sys2Proof.Laws
end

