-- ==== Sys2Proof/Tests/Slice0.lean ====
section
/-! SUPPORT. Tests. Expected values are the spec's own: the worked examples of its rules and the vectors of
95_test_vectors.md, named in each comment. The last part shows states that meet the hypotheses of the statements. -/

set_option Elab.async false

namespace Sys2Proof.Tests
open Sys2Proof Sys2Proof.Machine

/-- Parameters of the vectors' programs: `XW = 32`, `IN_CAP = OUT_CAP = 64`. -/
def testParams (outCap : Nat) : Params where
  xw := some 32
  inCap := some 64
  outCap := some outCap
  lDefault := 255
  regBase := 0
  inBase := 0
  outBase := 0

/-- After reset, with `bs` loaded, `LSIZE = 255` and `ARG0 = a`. -/
def loadedIn (outCap : Nat) (bs : List Byte) (a : Nat) : State :=
  { loadInput bs (State.resetWith (testParams outCap)) with arg0 := a }

/-- The same with `OUT_CAP = 64`. -/
def loaded (bs : List Byte) (a : Nat) : State := loadedIn 64 bs a

/-- `b"ABABABA"`. -/
def ababaBytes : List Byte := [0x41#8, 0x42#8, 0x41#8, 0x42#8, 0x41#8, 0x42#8, 0x41#8]

/-- `i` answers a next state that is `DONE` with output `out`. -/
def doneWith (i : Instr) (s : State) (out : List Byte) : Bool :=
  match exec i s with
  | .next t => decide (t.status = .done ∧ t.kind = none ∧ t.output = out)
  | .fault _ => false
  | .refused _ => false

/-- `i` answers a next state in `ERROR` with kind `k` and `OUT_LEN = n`. -/
def failsWith (i : Instr) (s : State) (k : ErrKind) (n : Nat) : Bool :=
  match exec i s with
  | .next t => decide (t.status = .error ∧ t.kind = some k ∧ t.outLen = n)
  | .fault _ => false
  | .refused _ => false

/-- `i` answers a next state that is `DONE` with the three results. -/
def resultsAre (i : Instr) (s : State) (r0 r1 : Nat) (r2 : BitVec 9) : Bool :=
  match exec i s with
  | .next t => decide (t.status = .done ∧ t.res0 = r0 ∧ t.res1 = r1 ∧ t.res2 = r2)
  | .fault _ => false
  | .refused _ => false

/-- A running command with opcode `op`, `POS = pos`, whose output so far is `out`. -/
def runningWith (op : Byte) (pos : Nat) (out : List Byte) : State :=
  ((start op (loaded [] 0)).appendSeq out).advance pos

/-- `i` answers a next state that still runs, with output `out`. -/
def goesOnWith (i : Instr) (s : State) (out : List Byte) : Bool :=
  match exec i s with
  | .next t => decide (t.status = .busy ∧ t.output = out)
  | .fault _ => false
  | .refused _ => false

/-! ### Well-formedness: an ill-formed term for each check, which the check refuses -/

theorem test_assigned_opcode_is_not_illegal : ¬ (Instr.illegal 0x05#8).wellFormed := by decide
theorem test_clr_opcode_is_not_illegal : ¬ (Instr.illegal 0x0F#8).wellFormed := by decide
theorem test_unassigned_opcode_is_illegal : (Instr.illegal 0x0A#8).wellFormed := by decide
theorem test_marker_01_is_not_reserved : ¬ (Instr.lz77tokReserved 0 0 0x01#8).wellFormed := by decide
theorem test_marker_02_is_reserved : (Instr.lz77tokReserved 0 0 0x02#8).wellFormed := by decide

/-! ### Decoding: every constructor from a word written out from the spec's encoding (R92 to R103) -/

theorem test_decode_commands :
    [0x01#8, 0x02#8, 0x03#8, 0x04#8, 0x05#8, 0x06#8, 0x07#8, 0x08#8, 0x09#8, 0x0F#8].map decodeCommand =
      [.venc, .vdec, .matcher, .lz77c, .lz77d, .lz78c, .lz78d, .lzwc, .lzwd, .clr] := by decide
theorem test_decode_illegal :
    [0x00#8, 0x0A#8, 0x0E#8, 0x10#8, 0xFF#8].map decodeCommand =
      [.illegal 0x00#8, .illegal 0x0A#8, .illegal 0x0E#8, .illegal 0x10#8, .illegal 0xFF#8] := by decide
/-- `AC 02` is 300: `AC` = 1 0101100, `02` = 0 0000010 (R131). -/
theorem test_decode_varint_bytes :
    decode .varint [0b10101100#8] = .ok (.varintCont 0b0101100#7) 1 ∧
      decode .varint [0b00000010#8] = .ok (.varintLast 0b0000010#7) 1 := by decide
/-- `00 00 01 41` is `(0, 0, 'A')` (R98). -/
theorem test_decode_token_lit :
    decode .lz77tok [0x00#8, 0x00#8, 0x01#8, 0x41#8] = .ok (.lz77tokLit 0 0 0x41#8) 4 := by decide
/-- `AB 02` is 299 (V-7.15), so `01 AB 02 00` is `(1, 299, None)`. -/
theorem test_decode_token_nolit :
    decode .lz77tok [0x01#8, 0xAB#8, 0x02#8, 0x00#8] = .ok (.lz77tokNolit 1 299) 4 := by decide
theorem test_decode_token_reserved :
    decode .lz77tok [0x00#8, 0x00#8, 0xFF#8] = .ok (.lz77tokReserved 0 0 0xFF#8) 3 := by decide
/-- `80 00 41` is the pair `(0, 'A')` with a non-canonical index (V-8D.7). -/
theorem test_decode_pair : decode .lz78pair [0x80#8, 0x00#8, 0x41#8] = .ok (.lz78pair 0 0x41#8) 3 := by decide
/-- `10 00` is the code 4096 (V-WD.11). -/
theorem test_decode_code : decode .lzwcode [0x10#8, 0x00#8] = .ok (.lzwcode 4096#16) 2 := by decide
/-- Cut units (V-7D.14 to V-7D.18, V-8D.5). -/
theorem test_decode_cut_units :
    decode .lz77tok [0x00#8] = .error .varintUnterminated ∧
    decode .lz77tok [0x00#8, 0x00#8] = .error .markerMissing ∧
    decode .lz77tok [0x00#8, 0x00#8, 0x01#8] = .error .literalMissing ∧
    decode .lz78pair [0x00#8] = .error .literalMissing := by decide
/-- V-V.3, V-V.4, V-V.11. -/
theorem test_encode_varint :
    encodeVarint 127 = [0x7F#8] ∧ encodeVarint 128 = [0x80#8, 0x01#8] ∧
      encodeVarint 4294967295 = [0xFF#8, 0xFF#8, 0xFF#8, 0xFF#8, 0x0F#8] := by decide +kernel

/-! ### The table's words reach the decoder and the step -/

theorem test_table_words :
    [(8, 0x01), (8, 0x0F), (8, 0x0A), (8, 0x80), (8, 0x00)].map (fun p => decodeTableWord p.1 p.2) =
      [some .venc, some .clr, some (.illegal 0x0A#8), some (.varintCont 0#7), some (.varintLast 0#7)] ∧
    [(16, 0x0102), (24, 0x000000), (24, 0x020000), (32, 0x41010000), (24, 0x410080)].map
        (fun p => decodeTableWord p.1 p.2) =
      [some (.lzwcode 258#16), some (.lz77tokNolit 0 0), some (.lz77tokReserved 0 0 0x02#8),
        some (.lz77tokLit 0 0 0x41#8), some (.lz78pair 0 0x41#8)] := by decide +kernel

/-- The next step of a state runs to a next state. -/
def stepsOn (s : State) : Bool :=
  match step s with
  | .next _ => true
  | .fault _ => false
  | .refused _ => false

theorem test_table_words_step :
    ∀ p ∈ [(8, 0x01), (8, 0x02), (8, 0x03), (8, 0x04), (8, 0x05), (8, 0x06), (8, 0x07), (8, 0x08), (8, 0x09),
      (8, 0x0F), (8, 0x0A), (8, 0x80), (8, 0x00), (16, 0x0102), (24, 0), (24, 0x020000), (32, 0x41010000),
      (24, 0x410080)], stepsOn (State.reset.withFetchWord p.1 p.2) = true := by decide +kernel

/-! ### One step of each instruction -/

/-- V-V.6: VENC 300. -/
theorem test_venc_300 : doneWith .venc (loaded [] 300) [0xAC#8, 0x02#8] = true := by decide +kernel
/-- R65: the second byte does not fit `OUT_CAP = 1`. -/
theorem test_venc_overflow : failsWith .venc (loadedIn 1 [] 300) .overflow 0 = true := by decide +kernel
/-- V-V.23: VDEC 1 on `41 AC 02 42`. -/
theorem test_vdec_mid_buffer :
    (match exec .vdec (loaded [0x41#8, 0xAC#8, 0x02#8, 0x42#8] 1) with
      | .next t => decide (t.status = .done ∧ t.res0 = 300 ∧ t.res1 = 3)
      | .fault _ => false
      | .refused _ => false) = true := by decide +kernel
/-- V-V.29: the value 2^32 with `XW = 32`. -/
theorem test_vdec_overflow :
    failsWith .vdec (loaded [0x80#8, 0x80#8, 0x80#8, 0x80#8, 0x10#8] 0) .overflow 0 = true := by decide +kernel
/-- V-M.3: the match overlaps its own source and reaches the end. -/
theorem test_match_overlap : resultsAre .matcher (loaded ababaBytes 2) 2 5 0#9 = true := by decide +kernel
/-- V-M.2: no match, the next symbol is `B`. -/
theorem test_match_none : resultsAre .matcher (loaded ababaBytes 1) 0 0 0x142#9 = true := by decide +kernel
/-- V-7.3. -/
theorem test_lz77c :
    doneWith .lz77c (loaded ababaBytes 0)
      [0x00#8, 0x00#8, 0x01#8, 0x41#8, 0x00#8, 0x00#8, 0x01#8, 0x42#8, 0x02#8, 0x05#8, 0x00#8] = true := by
  decide +kernel
/-- P6: the ninth append finds `OUT_LEN = OUT_CAP = 8`. -/
theorem test_lz77c_overflow : failsWith .lz77c (loadedIn 8 ababaBytes 0) .overflow 0 = true := by decide +kernel
/-- V-7D.2: an overlapping copy, byte by byte. -/
theorem test_lz77d_overlap :
    doneWith .lz77d (loaded [0x00#8, 0x00#8, 0x01#8, 0x41#8, 0x01#8, 0x05#8, 0x00#8] 0)
      [0x41#8, 0x41#8, 0x41#8, 0x41#8, 0x41#8, 0x41#8] = true := by decide +kernel
/-- V-7D.9: the `A` already appended is withdrawn. -/
theorem test_lz77d_corrupt :
    failsWith .lz77d (loaded [0x00#8, 0x00#8, 0x01#8, 0x41#8, 0x02#8, 0x01#8, 0x00#8] 0) .corruptStream 0 = true := by
  decide +kernel
/-- V-8.11: a flush with a non-zero index. -/
theorem test_lz78c_flush :
    doneWith .lz78c (loaded [0x41#8, 0x42#8, 0x41#8, 0x42#8, 0x41#8, 0x42#8] 0)
      [0x00#8, 0x41#8, 0x00#8, 0x42#8, 0x01#8, 0x42#8, 0x01#8, 0x42#8] = true := by decide +kernel
/-- S1, the source's own example. -/
theorem test_lz78c_source_example :
    doneWith .lz78c (loaded ababaBytes 0)
      [0x00#8, 0x41#8, 0x00#8, 0x42#8, 0x01#8, 0x42#8, 0x03#8, 0x41#8] = true := by decide +kernel
/-- V-8D.2: each phrase chains on the one before. -/
theorem test_lz78d_chain :
    doneWith .lz78d (loaded [0x00#8, 0x41#8, 0x01#8, 0x42#8, 0x02#8, 0x43#8] 0)
      [0x41#8, 0x41#8, 0x42#8, 0x41#8, 0x42#8, 0x43#8] = true := by decide +kernel
/-- V-8D.5: the stream ends after an index. -/
theorem test_lz78d_cut : failsWith .lz78d (loaded [0x00#8, 0x41#8, 0x00#8] 0) .corruptStream 0 = true := by
  decide +kernel
/-- V-W.5. -/
theorem test_lzwc :
    doneWith .lzwc (loaded ababaBytes 0)
      [0x00#8, 0x41#8, 0x00#8, 0x42#8, 0x01#8, 0x00#8, 0x01#8, 0x02#8] = true := by decide +kernel
/-- V-WD.3: two self-referential codes. -/
theorem test_lzwd_self_reference :
    doneWith .lzwd (loaded [0x00#8, 0x41#8, 0x01#8, 0x00#8, 0x01#8, 0x01#8] 0)
      [0x41#8, 0x41#8, 0x41#8, 0x41#8, 0x41#8, 0x41#8] = true := by decide +kernel
/-- V-WD.7: parity is tested before the first code. -/
theorem test_lzwd_odd : failsWith .lzwd (loaded [0x01#8, 0x00#8, 0x00#8] 0) .malformedInput 0 = true := by
  decide +kernel
/-- V-C.4: CLR. -/
theorem test_clr :
    (match exec .clr { loaded [] 0 with status := .done, outLen := 8 } with
      | .next t => decide (t.status = .idle ∧ t.kind = none ∧ t.outLen = 0)
      | .fault _ => false
      | .refused _ => false) = true := by decide +kernel
/-- V-C.2: an illegal opcode leaves `OUT_LEN`. -/
theorem test_illegal :
    failsWith (.illegal 0x0A#8) { loaded [] 0 with status := .done, outLen := 8 } .illegalOperation 8 = true := by
  decide +kernel
/-- R132: the group of the second byte counts 128 times. -/
theorem test_varint_cont :
    (match exec (.varintCont 0x2C#7) (start 0x02#8 (loaded [] 0)) with
      | .next t => decide (t.status = .busy ∧ t.work.vValue = 44 ∧ t.work.vCount = 1)
      | .fault _ => false
      | .refused _ => false) = true := by decide +kernel
/-- R133: 44 + 2 * 128 = 300. -/
theorem test_varint_last :
    (match exec (.varintLast 0x02#7) (addGroup 0x2C#7 (start 0x02#8 (loaded [] 0))) with
      | .next t => decide (t.status = .done ∧ t.res0 = 300)
      | .fault _ => false
      | .refused _ => false) = true := by decide +kernel
/-- R184: history `A B`, token `(2, 5, None)`. -/
theorem test_token_nolit :
    goesOnWith (.lz77tokNolit 2 5) (runningWith 0x05#8 0 [0x41#8, 0x42#8]) ababaBytes = true := by decide +kernel
/-- R185: the literal follows the copy. -/
theorem test_token_lit :
    goesOnWith (.lz77tokLit 1 1 0x42#8) (runningWith 0x05#8 0 [0x41#8]) [0x41#8, 0x41#8, 0x42#8] = true := by
  decide +kernel
/-- R99. -/
theorem test_token_reserved :
    failsWith (.lz77tokReserved 0 0 0x02#8) (runningWith 0x05#8 0 [0x41#8]) .corruptStream 0 = true := by
  decide +kernel
/-- R182: `(1, 0, ..)` is no token. -/
theorem test_token_shape :
    failsWith (.lz77tokNolit 1 0) (runningWith 0x05#8 0 [0x41#8]) .corruptStream 0 = true := by decide +kernel
/-- R212: the first pair must have index 0. -/
theorem test_pair :
    goesOnWith (.lz78pair 0 0x41#8) (runningWith 0x07#8 0 []) [0x41#8] = true ∧
      failsWith (.lz78pair 1 0x41#8) (runningWith 0x07#8 0 []) .corruptStream 0 = true := by decide +kernel
/-- R239: a seeded first code, and one that is not. -/
theorem test_code_first :
    goesOnWith (.lzwcode 65#16) (runningWith 0x09#8 2 []) [0x41#8] = true ∧
      failsWith (.lzwcode 256#16) (runningWith 0x09#8 2 []) .corruptStream 0 = true := by decide +kernel
/-- R241, R242: 256 is `NEXT_CODE`, 257 is not known. -/
theorem test_code_later :
    goesOnWith (.lzwcode 256#16) ((runningWith 0x09#8 4 [0x41#8]).setPrev [0x41#8]) [0x41#8, 0x41#8, 0x41#8] = true ∧
      failsWith (.lzwcode 257#16) ((runningWith 0x09#8 4 [0x41#8]).setPrev [0x41#8]) .corruptStream 0 = true := by
  decide +kernel

/-! ### Witnesses: states that meet the hypotheses of the statements -/

theorem roomFor_of_le {s : State} {n c : Nat} (h : s.par.outCap = some c) (hn : n ≤ c) : s.roomFor n :=
  fun c' h' => by rw [h] at h'; cases h'; exact hn

/-- DecodeOfEncodeIsIdentity, at both constrained constructors. -/
theorem witness_well_formed :
    (Instr.illegal 0xFF#8).wellFormed ∧ (Instr.lz77tokReserved 7 0 0xFF#8).wellFormed := by decide
/-- DecodedUnitIsSelfDelimiting. -/
theorem witness_decoded : decode .lz78pair [0x00#8, 0x41#8] = .ok (.lz78pair 0 0x41#8) 2 := by decide
/-- VarintLengthCountsDigits, at the boundary of its two cases. -/
theorem witness_varint_lengths : 127 ≤ 127 ∧ 127 < 128 ∧ 1 ≤ 1 := by decide
/-- VarintValueIsDigitSum. -/
theorem witness_varint_bytes : (∀ x ∈ [0x80#8], 128 ≤ (x : Byte).toNat) ∧ (0x7F#8 : Byte).toNat < 128 := by decide
/-- VarintsArePrefixFree. -/
theorem witness_varint_prefix :
    decodeVarint [0x80#8, 0x00#8] = some (0, 2) ∧ ([0x80#8, 0x00#8] : List Byte) <+: [0x80#8, 0x00#8] := by decide
/-- VarintRoundTrip, VdecReturnsValueAndOffset's success. -/
theorem witness_varint_round_trip :
    (loaded [0x2C#8] 0).inFrom (loaded [0x2C#8] 0).arg0 = encodeVarint 44 ++ [] ∧ (loaded [0x2C#8] 0).status ≠ .busy ∧
      (loaded [0x2C#8] 0).inputOk ∧ (loaded [0x2C#8] 0).par.fits 44 := by decide +kernel
/-- VencAppendsTheVarint: room for exactly the encoding, and one byte too little. -/
theorem witness_venc :
    (loadedIn 2 [] 300).status ≠ .busy ∧ (loadedIn 2 [] 300).roomFor (encodeVarint (loadedIn 2 [] 300).arg0).length ∧
      (loadedIn 1 [] 300).par.outCap = some 1 ∧ 1 < (encodeVarint (loadedIn 1 [] 300).arg0).length :=
  ⟨by decide, roomFor_of_le rfl (by decide +kernel), rfl, by decide +kernel⟩
/-- VdecReturnsValueAndOffset: a missing varint, and a value of 2^32. -/
theorem witness_vdec_errors :
    (loaded [0x41#8] 1).status ≠ .busy ∧ (loaded [0x41#8] 1).inputOk ∧
      decodeVarint ((loaded [0x41#8] 1).inFrom (loaded [0x41#8] 1).arg0) = none ∧
      (loaded [0x80#8, 0x80#8, 0x80#8, 0x80#8, 0x10#8] 0).inputOk ∧
      decodeVarint ((loaded [0x80#8, 0x80#8, 0x80#8, 0x80#8, 0x10#8] 0).inFrom 0) = some (4294967296, 5) ∧
      ¬ (loaded [0x80#8, 0x80#8, 0x80#8, 0x80#8, 0x10#8] 0).par.fits 4294967296 := by decide +kernel
/-- TooLongInputIsIllegal, and the same clause of VDEC's and MATCH's statements: `IN_CAP = 64`, `IN_LEN = 65`. -/
theorem witness_too_long :
    { loaded [] 0 with inLen := 65 }.inTooLong = true ∧ { loaded [] 0 with inLen := 65 }.status ≠ .busy ∧
      { loaded [] 0 with inLen := 65 }.par.inCap = some 64 ∧ Instr.lzwd ∈ inCommands := by decide
/-- MatchReturnsNearestLongest: the last cursor inside the input and the first outside. -/
theorem witness_match_cursors :
    (loaded ababaBytes 6).inputOk ∧ (loaded ababaBytes 6).arg0 < (loaded ababaBytes 6).inLen ∧
      (loaded ababaBytes 7).inLen ≤ (loaded ababaBytes 7).arg0 := by decide
/-- MatcherResultInvariants. -/
theorem witness_best_match : 2 < (loaded ababaBytes 0).inLen ∧ bestMatch (loaded ababaBytes 0) 2 = (2, 5) := by
  decide +kernel
/-- Lz77EncodesGreedyTokens, Lz77OutputIsAtMostFourBytesASymbol: the stream of one symbol, with room for exactly its four
bytes and with one byte less. -/
theorem witness_lz77c :
    (loadedIn 4 [0x41#8] 0).status ≠ .busy ∧ (loadedIn 4 [0x41#8] 0).inputOk ∧
      (loadedIn 4 [0x41#8] 0).inLen < 128 ^ 5 ∧
      GreedyTokens (loadedIn 4 [0x41#8] 0) 0 (encodeToken 0 0 (some ((loadedIn 4 [0x41#8] 0).inByte 0)) ++ []) ∧
      (loadedIn 4 [0x41#8] 0).roomFor 4 ∧ (loadedIn 3 [0x41#8] 0).par.outCap = some 3 ∧
      failsWith .lz77c (loadedIn 3 [0x41#8] 0) .overflow 0 = true := by
  refine ⟨by decide, by decide, by decide, .token 0 0 0 [] (by decide) ⟨fun d' k' h1 h2 => ?_, fun _ => rfl, fun h => ?_⟩
    (by decide) .stop, roomFor_of_le rfl (by decide), rfl, by decide +kernel⟩
  · simp [State.windowSize] at h2
    omega
  · omega
/-- `i` answers a `DONE` state whose moved output fits `IN`. -/
def movable (i : Instr) (s : State) : Bool :=
  match exec i s with
  | .next t => decide (t.status = .done ∧ (moveOutToIn t).inputOk)
  | .fault _ => false
  | .refused _ => false

/-- Lz77RoundTrip, Lz78RoundTrip, LzwRoundTrip: encoders that end `DONE` with a stream that fits `IN`. -/
theorem witness_round_trips :
    (loadedIn 14 ababaBytes 0).roomFor (loadedIn 14 ababaBytes 0).inLen ∧
      movable .lz77c (loadedIn 14 ababaBytes 0) = true ∧ movable .lz78c (loadedIn 14 ababaBytes 0) = true ∧
      movable .lzwc (loadedIn 14 ababaBytes 0) = true ∧ movable .lzwc (loaded [] 0) = true :=
  ⟨roomFor_of_le rfl (by decide), by decide +kernel, by decide +kernel, by decide +kernel, by decide +kernel⟩
/-- Lz77WithoutWindowIsAllLiterals. -/
theorem witness_no_window :
    { loaded [0x41#8] 0 with wsize := 0 }.status ≠ .busy ∧ { loaded [0x41#8] 0 with wsize := 0 }.inputOk ∧
      { loaded [0x41#8] 0 with wsize := 0 }.wsize = 0 ∧
      { loaded [0x41#8] 0 with wsize := 0 }.roomFor (4 * 1) :=
  ⟨by decide, by decide, rfl, roomFor_of_le rfl (by decide)⟩
/-- Lz77DecodesExactlyTheStreams: one literal token. -/
theorem witness_lz77_stream :
    (loaded [0x00#8, 0x00#8, 0x01#8, 0x41#8] 0).status ≠ .busy ∧ (loaded [0x00#8, 0x00#8, 0x01#8, 0x41#8] 0).inputOk ∧
      Lz77Decodes (loaded [0x00#8, 0x00#8, 0x01#8, 0x41#8] 0).input [] [0x41#8] ∧
      (loaded [0x00#8, 0x00#8, 0x01#8, 0x41#8] 0).roomFor 1 ∧
      doneWith .lz77d (loaded [0x00#8, 0x00#8, 0x01#8, 0x41#8] 0) [0x41#8] = true :=
  ⟨by decide, by decide, .lit _ _ _ 0 0 4 0x41#8 (by decide +kernel) (by decide) (by decide)
    (Lz77Decodes.stop [0x41#8]), roomFor_of_le rfl (by decide), by decide +kernel⟩
/-- TokenCopiesCyclicallyThenAppends: the largest legal distance, and room for exactly the copy and the literal. -/
theorem witness_token :
    (runningWith 0x05#8 0 [0x41#8, 0x42#8]).running 0x05#8 ∧ (2 = 0 ↔ 62 = 0) ∧
      2 ≤ (runningWith 0x05#8 0 [0x41#8, 0x42#8]).outLen ∧ (runningWith 0x05#8 0 [0x41#8, 0x42#8]).roomFor (2 + 62) ∧
      (runningWith 0x05#8 0 [0x41#8, 0x42#8]).roomFor (2 + 61 + 1) :=
  ⟨by decide +kernel, by decide, by decide +kernel, roomFor_of_le rfl (by decide), roomFor_of_le rfl (by decide)⟩
/-- FaultyTokensRaiseCorruptStream: the smallest reserved marker, a wrong shape, one past the largest distance. -/
theorem witness_faulty_tokens :
    (runningWith 0x05#8 0 [0x41#8]).running 0x05#8 ∧ 2 ≤ (0x02#8 : Byte).toNat ∧ ¬ (1 = 0 ↔ 0 = 0) ∧
      (runningWith 0x05#8 0 [0x41#8]).outLen < 2 := by decide +kernel
/-- Lz78EncodesGrowingDictionary, Lz78RoundTrip: V-8.6's stream has 8 bytes; room for the bound of R206, for exactly the
stream, and for one byte less. -/
theorem witness_lz78c :
    (loadedIn 14 ababaBytes 0).status ≠ .busy ∧ (loadedIn 14 ababaBytes 0).inputOk ∧
      (loadedIn 14 ababaBytes 0).roomFor (lz78Bound (loadedIn 14 ababaBytes 0).inLen) ∧
      (lz78Encode [] [] (loadedIn 8 ababaBytes 0).input).length = 8 ∧ (loadedIn 8 ababaBytes 0).roomFor 8 ∧
      failsWith .lz78c (loadedIn 7 ababaBytes 0) .overflow 0 = true :=
  ⟨by decide, by decide, roomFor_of_le rfl (by decide +kernel), by decide +kernel, roomFor_of_le rfl (by decide),
    by decide +kernel⟩
/-- Lz78DecodesExactlyTheStreams: one pair. -/
theorem witness_lz78_stream :
    (loaded [0x00#8, 0x41#8] 0).status ≠ .busy ∧ (loaded [0x00#8, 0x41#8] 0).inputOk ∧
      Lz78Decodes (loaded [0x00#8, 0x41#8] 0).input [[]] [0x41#8] ∧ (loaded [0x00#8, 0x41#8] 0).roomFor 1 ∧
      doneWith .lz78d (loaded [0x00#8, 0x41#8] 0) [0x41#8] = true :=
  ⟨by decide, by decide, .pair _ [] [[]] 0 2 0x41#8 [] (by decide +kernel) rfl (Lz78Decodes.stop _),
    roomFor_of_le rfl (by decide), by decide +kernel⟩
/-- PairAppendsAndStoresItsPhrase: a known index and an unknown one. -/
theorem witness_pair :
    (runningWith 0x07#8 0 []).running 0x07#8 ∧ Dict.get? (runningWith 0x07#8 0 []).work.dict78d 0 = some [] ∧
      (runningWith 0x07#8 0 []).roomFor (0 + 0 + 1) ∧ Dict.get? (runningWith 0x07#8 0 []).work.dict78d 1 = none :=
  ⟨by decide +kernel, by decide +kernel, roomFor_of_le rfl (by decide), by decide +kernel⟩
/-- LzwEncodesBoundedTable: P6's LZWC, whose stream has exactly the 8 bytes of `OUT`, and one byte less. -/
theorem witness_lzwc :
    (loadedIn 8 ababaBytes 0).status ≠ .busy ∧ (loadedIn 8 ababaBytes 0).inputOk ∧
      (codeBytes (lzwEncode singleBytes [] (loadedIn 8 ababaBytes 0).input)).length = 8 ∧
      (loadedIn 8 ababaBytes 0).roomFor 8 ∧ failsWith .lzwc (loadedIn 7 ababaBytes 0) .overflow 0 = true :=
  ⟨by decide, by decide, by decide +kernel, roomFor_of_le rfl (by decide), by decide +kernel⟩
/-- LzwRoundTrip: a non-empty and the empty buffer. -/
theorem witness_lzw_round_trip :
    (loadedIn 14 ababaBytes 0).roomFor (2 * (loadedIn 14 ababaBytes 0).inLen) ∧
      1 ≤ (loadedIn 14 ababaBytes 0).inLen ∧ (loaded [] 0).inLen = 0 :=
  ⟨roomFor_of_le rfl (by decide), by decide, by decide⟩
/-- LzwDecodesExactlyTheStreams: one code word, and then the self-referential one. -/
theorem witness_lzw_stream :
    (loaded [0x00#8, 0x41#8, 0x01#8, 0x00#8] 0).input = 0x00#8 :: 0x41#8 :: [0x01#8, 0x00#8] ∧
      (codeOfBytes 0x00#8 0x41#8).toNat < 256 ∧
      LzwDecodes [0x01#8, 0x00#8] singleBytes [0x41#8] ([0x41#8, 0x41#8] ++ []) ∧
      (loaded [0x00#8, 0x41#8, 0x01#8, 0x00#8] 0).roomFor (2 + 1) ∧
      doneWith .lzwd (loaded [0x00#8, 0x41#8, 0x01#8, 0x00#8] 0) [0x41#8, 0x41#8, 0x41#8] = true :=
  ⟨by decide +kernel, by decide +kernel, .code _ _ _ _ _ _ _ (.inr ⟨by decide +kernel, rfl⟩) (.stop _ _),
    roomFor_of_le rfl (by decide), by decide +kernel⟩
/-- LzwdTestsTheWholeStream: odd, empty, and even with a first code of 256. -/
theorem witness_lzwd_tests :
    (loaded [0x41#8] 0).inLen % 2 = 1 ∧ (loaded [] 0).inLen = 0 ∧ (loaded [0x01#8, 0x00#8] 0).inLen % 2 = 0 ∧
      2 ≤ (loaded [0x01#8, 0x00#8] 0).inLen ∧
      256 ≤ 256 * ((loaded [0x01#8, 0x00#8] 0).inByte 0).toNat + ((loaded [0x01#8, 0x00#8] 0).inByte 1).toNat := by
  decide +kernel
/-- FirstCodeWordMustBeKnown: the largest seeded code and the first that is not. -/
theorem witness_first_code :
    (runningWith 0x09#8 2 []).running 0x09#8 ∧ (runningWith 0x09#8 2 []).work.pos = 2 ∧
      Dict.get? (runningWith 0x09#8 2 []).work.dictwd (255#16).toNat = some [0xFF#8] ∧
      Dict.get? (runningWith 0x09#8 2 []).work.dictwd (256#16).toNat = none := by decide +kernel
/-- LaterCodeWordKnownNextOrRejected: known, next and rejected, with room in the table and with none. -/
theorem witness_later_code :
    (runningWith 0x09#8 4 []).work.pos ≠ 2 ∧ (runningWith 0x09#8 4 []).work.nextCode = (256#16).toNat ∧
      Dict.get? (runningWith 0x09#8 4 []).work.dictwd (256#16).toNat = none ∧
      (257#16).toNat ≠ (runningWith 0x09#8 4 []).work.nextCode ∧
      (runningWith 0x09#8 4 []).work.dictwd.length < 4096 ∧ 4096 ≤ (List.replicate 4096 (0, ([] : Phrase))).length := by
  refine ⟨by decide +kernel, by decide +kernel, by decide +kernel, by decide +kernel, by decide +kernel, ?_⟩
  rw [List.length_replicate]
/-- FullEncoderTableStaysFrozen: LZWC at the end of an empty input but for one byte, with a full table. -/
theorem witness_full_table :
    ((start 0x08#8 (loaded [0x41#8] 0)).setWork
        { startWork 0x08#8 0 (Work.unspecified 0) with
          dictwe := List.replicate 4096 ([0x41#8], 65) }).running 0x08#8 ∧
      4096 ≤ (List.replicate 4096 (([0x41#8] : Phrase), 65)).length ∧
      (match step ((start 0x08#8 (loaded [0x41#8] 0)).setWork
          { startWork 0x08#8 0 (Work.unspecified 0) with dictwe := List.replicate 4096 ([0x41#8], 65) }) with
        | .next t => decide (t.status = .busy)
        | .fault _ => false
        | .refused _ => false) = true := by
  refine ⟨by decide +kernel, ?_, by decide +kernel⟩
  rw [List.length_replicate]
/-- ClrRestoresIdle, EmptyStreamOfEachCodec, EveryCommandEnds and the other statements about an idle block. -/
theorem witness_idle :
    (loaded [] 0).status ≠ .busy ∧ (loaded [] 0).inLen = 0 ∧ (loaded [] 0).host = [] ∧ IsIssued .clr ∧
      IsIssued (.illegal 0x00#8) := ⟨by decide, by decide, rfl, ⟨rfl, trivial⟩, ⟨rfl, by decide⟩⟩
/-- UnassignedOpcodeIsIllegal, at the edges of the gaps. -/
theorem witness_unassigned :
    ¬ assignedOpcode 0x00#8 ∧ ¬ assignedOpcode 0x0A#8 ∧ ¬ assignedOpcode 0x0E#8 ∧ ¬ assignedOpcode 0x10#8 := by
  decide
/-- ErrorCompletionByCommand, CommandRaisesOnlyItsKinds: a command that fails. -/
theorem witness_failure :
    IsIssued .lzwd ∧ failsWith .lzwd (loaded [] 0) .emptyStream 0 = true := ⟨⟨rfl, trivial⟩, by decide +kernel⟩
/-- CommandFrame: a command of each kind that succeeds. -/
theorem witness_frame :
    IsIssued .venc ∧ doneWith .venc (loaded [] 0) [0x00#8] = true ∧ IsIssued .vdec ∧
      doneWith .vdec (loaded [0x00#8] 0) [] = true := ⟨⟨rfl, trivial⟩, by decide +kernel, ⟨rfl, trivial⟩, by decide +kernel⟩
/-- UnitBeyondCapacityOverflows: `OUT` full, and each unit one byte too long. -/
theorem witness_overflow :
    (runningWith 0x05#8 0 [0x41#8]).par.outCap = some 64 ∧ (runningWith 0x05#8 0 [0x41#8]).outLen ≤ 64 ∧
      64 < (runningWith 0x05#8 0 [0x41#8]).outLen + 64 ∧ 64 < (runningWith 0x05#8 0 [0x41#8]).outLen + 63 + 1 ∧
      ((start 0x07#8 (loadedIn 1 [] 0)).append 0x41#8).running 0x07#8 ∧
      Dict.get? ((start 0x07#8 (loadedIn 1 [] 0)).append 0x41#8).work.dict78d 0 = some [] ∧
      ((start 0x07#8 (loadedIn 1 [] 0)).append 0x41#8).outLen = 1 ∧
      ((start 0x09#8 (loadedIn 1 [] 0)).append 0x41#8).outLen = 1 ∧
      Dict.get? ((start 0x09#8 (loadedIn 1 [] 0)).append 0x41#8).work.dictwd (65#16).toNat = some [0x41#8] := by
  decide +kernel
/-- UnitBeyondCapacityOverflows: the code word equal to `NEXT_CODE`, with one byte of room for its two. -/
theorem witness_overflow_next_code :
    let s := ((runningWith 0x09#8 4 []).setPrev [0x41#8])
    s.running 0x09#8 ∧ s.work.pos ≠ 2 ∧ Dict.get? s.work.dictwd (256#16).toNat = none ∧
      (256#16).toNat = s.work.nextCode ∧ 64 < s.outLen + 63 + (s.work.prev ++ s.work.prev.take 1).length ∧
      failsWith (.lzwcode 256#16)
        (((start 0x09#8 (loadedIn 2 [] 0)).append 0x41#8).advance 4 |>.setPrev [0x41#8]) .overflow 0 = true := by
  decide +kernel
/-- VarintBytesAccumulate: VDEC and LZ77D running; a value that fits and one that does not. -/
theorem witness_varint_unit :
    (start 0x02#8 (loaded [] 0)).status = .busy ∧ (start 0x02#8 (loaded [] 0)).cmd = 0x02#8 ∧
      (start 0x05#8 (loaded [] 0)).cmd ∈ [0x05#8, 0x07#8] ∧
      (start 0x02#8 (loaded [] 0)).par.fits (0 + 127 * 128 ^ 0) ∧
      ¬ (start 0x02#8 (loaded [] 0)).par.fits (0 + 16 * 128 ^ 4) := by decide +kernel
/-- StreamUnitFrame, UnitsKeepOtherWorkingRegisters: a unit of each decoder that goes on. -/
theorem witness_unit_frame :
    (Instr.lz78pair 0 0x41#8).format ≠ .cmd8 ∧
      goesOnWith (.lz78pair 0 0x41#8) (runningWith 0x07#8 0 []) [0x41#8] = true ∧
      goesOnWith (.varintCont 1#7) (runningWith 0x02#8 0 []) [] = true ∧
      goesOnWith (.lz77tokNolit 0 0) (runningWith 0x05#8 0 []) [] = true ∧
      goesOnWith (.lz77tokLit 0 0 0x41#8) (runningWith 0x05#8 0 []) [0x41#8] = true ∧
      goesOnWith (.lzwcode 65#16) (runningWith 0x09#8 2 []) [0x41#8] = true := by decide +kernel
/-- RefusalsAreExactlyThese: both formats. -/
theorem witness_formats : Instr.venc.format = .cmd8 ∧ (Instr.lzwcode 0#16).format ≠ .cmd8 := by decide
/-- HostWriteOfInIsRead: the host's reads of `OUT` at the last byte, behind it, and at the last index and the first that
`OUT` does not have; R49: after CLR the byte at index 0 is no longer below `OUT_LEN`. -/
theorem witness_host_reads :
    (match step { (finish (runningWith 0x07#8 0 [0x41#8])) with host := [.readOut 0] } with
      | .next t => decide (t.rdata = 0x41)
      | .fault _ => false
      | .refused _ => false) = true ∧
      0 < (finish (runningWith 0x07#8 0 [0x41#8])).outLen ∧ (finish (runningWith 0x07#8 0 [0x41#8])).outLen ≤ 1 ∧
      inside (finish (runningWith 0x07#8 0 [0x41#8])).par.outCap 63 = true ∧
      inside (finish (runningWith 0x07#8 0 [0x41#8])).par.outCap 64 = false ∧
      (clear (runningWith 0x07#8 0 [0x41#8])).outLen = 0 := by decide +kernel
/-- RegisterMapReads, RegisterMapWrites: a read and a write as the host's next move, `XW = 32`, at the last register, the
first reserved offset, a writable register with the largest value that fits, and a read-only one; each steps on. -/
theorem witness_register_moves :
    (loaded [] 0).par.xw = some 32 ∧
      (∀ op ∈ [HostOp.readReg 0x28, .readReg 0x2C, .writeReg 0x1C 4294967295, .writeReg 0x28 0, .writeReg 0x2C 0],
        { loaded [] 0 with host := [op] }.status ≠ .busy ∧ { loaded [] 0 with host := [op] }.host = op :: [] ∧
          stepsOn { loaded [] 0 with host := [op] } = true) := by decide +kernel
/-- CmdWriteStepRunsTheCommand, RegisterMapReads, RegisterMapWrites, MoveMakesOutputTheInput, HostWriteOfInIsRead,
ResetInputRestoresResetValues: the host's next move, with the boundary offsets and indices. -/
theorem witness_host_moves :
    { loaded [] 0 with host := [.writeReg 0x00 0x106] }.host = .writeReg 0x00 0x106 :: [] ∧
      (loaded [] 0).par.fits 4294967295 ∧ inside (loaded [] 0).par.inCap 63 = true ∧
      inside (loaded [] 0).par.inCap 64 = false ∧ 0x2C ≤ 0x2C ∧
      (∀ c, (loaded [] 0).par.inCap = some c → { loaded [] 0 with outLen := 64 }.outLen ≤ c) :=
  ⟨rfl, by decide, by decide, by decide, by decide, fun c h => by cases h; decide⟩
/-- A step ends in `ERROR` with kind `k`. -/
def stepFailsWith (s : State) (k : ErrKind) : Bool :=
  match step s with
  | .next t => decide (t.status = .error ∧ t.kind = some k)
  | .fault _ => false
  | .refused _ => false

/-- DecoderStepRunsTheUnit: cut units of each decoder (R186, R211; V-7D.14 to V-7D.18, V-8D.5). -/
theorem witness_cut_units :
    (start 0x05#8 (loaded [0x00#8, 0x00#8] 0)).work.pos < (start 0x05#8 (loaded [0x00#8, 0x00#8] 0)).inLen ∧
      decode .lz77tok ((start 0x05#8 (loaded [0x00#8, 0x00#8] 0)).inFrom 0) = .error .markerMissing ∧
      stepFailsWith (start 0x05#8 (loaded [0x00#8] 0)) .malformedInput = true ∧
      stepFailsWith (start 0x05#8 (loaded [0x00#8, 0x00#8] 0)) .corruptStream = true ∧
      stepFailsWith (start 0x05#8 (loaded [0x00#8, 0x00#8, 0x01#8] 0)) .corruptStream = true ∧
      stepFailsWith (start 0x07#8 (loaded [0x80#8] 0)) .malformedInput = true ∧
      stepFailsWith (start 0x07#8 (loaded [0x00#8] 0)) .corruptStream = true ∧
      stepFailsWith (start 0x09#8 (loaded [0x00#8] 0)) .malformedInput = true ∧
      (start 0x02#8 (loaded [0x41#8] 1)).inLen ≤ (start 0x02#8 (loaded [0x41#8] 1)).work.vOff ∧
      stepFailsWith (start 0x02#8 (loaded [0x41#8] 1)) .malformedInput = true := by decide +kernel
/-- DecoderStepRunsTheUnit: each decoder at its first unit. -/
theorem witness_decoder_steps :
    (start 0x05#8 (loaded [0x00#8, 0x00#8, 0x00#8] 0)).status = .busy ∧
      (start 0x05#8 (loaded [0x00#8, 0x00#8, 0x00#8] 0)).inputOk ∧
      (start 0x05#8 (loaded [0x00#8, 0x00#8, 0x00#8] 0)).work.pos < 3 ∧
      decode .lz77tok ((start 0x05#8 (loaded [0x00#8, 0x00#8, 0x00#8] 0)).inFrom 0) = .ok (.lz77tokNolit 0 0) 3 ∧
      decode .lz78pair ((start 0x07#8 (loaded [0x00#8, 0x41#8] 0)).inFrom 0) = .ok (.lz78pair 0 0x41#8) 2 ∧
      (start 0x09#8 (loaded [0x00#8, 0x41#8] 0)).inLen % 2 = 0 ∧
      decode .lzwcode ((start 0x09#8 (loaded [0x00#8, 0x41#8] 0)).inFrom 0) = .ok (.lzwcode 65#16) 2 ∧
      decode .varint ((start 0x02#8 (loaded [0x41#8] 0)).inFrom 0) = .ok (.varintLast 0x41#7) 1 := by decide +kernel
/-- EngineNeverWritesIn, OutIsAppendOnly: a running command whose next step does not fail. -/
theorem witness_engine_step :
    (start 0x06#8 (loaded [0x41#8] 0)).status = .busy ∧ (start 0x06#8 (loaded [0x41#8] 0)).cmd ≠ 0x0F#8 ∧
      (match step (start 0x06#8 (loaded [0x41#8] 0)) with
        | .next t => decide (t.status ≠ .error)
        | .fault _ => false
        | .refused _ => false) = true := by decide +kernel
/-- ResetMeetsInvariant: the vectors' parameters, and infinity for all three. -/
theorem witness_params :
    (testParams 64).wf ∧ { testParams 64 with xw := none, inCap := none, outCap := none }.wf := by decide
/-- StepKeepsInvariant: a state with the invariant that steps on. -/
theorem witness_invariant :
    Inv (State.resetWith (testParams 64)) ∧ stepsOn (State.resetWith (testParams 64)) = true := by
  refine ⟨⟨by decide, by decide, by decide, ?_, ?_, ?_, ?_, by decide, by decide, by decide, by decide, by decide, ?_, ?_,
    ?_⟩, by decide +kernel⟩
  all_goals simp [State.resetWith, State.resetFrom, State.roomFor, Params.fits, Params.trunc, testParams]
/-- DictionaryInvariantKept: LZ78C with one entry in its dictionary, and it steps on. -/
theorem witness_lz78c_dict :
    DictInv (lz78cIter (start 0x06#8 (loaded [0x41#8, 0x42#8] 0))) ∧
      (lz78cIter (start 0x06#8 (loaded [0x41#8, 0x42#8] 0))).work.dict78e = [([0x41#8], 1)] ∧
      stepsOn (lz78cIter (start 0x06#8 (loaded [0x41#8, 0x42#8] 0))) = true := by
  have hd : (lz78cIter (start 0x06#8 (loaded [0x41#8, 0x42#8] 0))).work.dict78e = [([0x41#8], 1)] := by decide +kernel
  have hn : (lz78cIter (start 0x06#8 (loaded [0x41#8, 0x42#8] 0))).work.nextCode = 2 := by decide +kernel
  have hc : (lz78cIter (start 0x06#8 (loaded [0x41#8, 0x42#8] 0))).cmd = 0x06#8 := by decide +kernel
  refine ⟨⟨fun _ => ?_, fun h => ?_, fun h => ?_, fun h => ?_⟩, hd, by decide +kernel⟩
  · rw [hd, hn]
    exact ⟨rfl, ⟨by decide, by decide⟩, by decide, .inl (by decide +kernel)⟩
  all_goals rw [State.running, hc] at h; exact absurd h.2 (by decide)
/-- DictionaryInvariantKept: LZ78D, LZWC and LZWD just started, each of which steps on. -/
theorem witness_started_dicts :
    DictInv (start 0x07#8 (loaded [0x00#8, 0x41#8] 0)) ∧ stepsOn (start 0x07#8 (loaded [0x00#8, 0x41#8] 0)) = true ∧
      DictInv (start 0x08#8 (loaded [0x41#8] 0)) ∧ stepsOn (start 0x08#8 (loaded [0x41#8] 0)) = true ∧
      DictInv (start 0x09#8 (loaded [0x00#8, 0x41#8] 0)) ∧ stepsOn (start 0x09#8 (loaded [0x00#8, 0x41#8] 0)) = true := by
  refine ⟨⟨fun h => ?_, fun _ => ?_, fun h => ?_, fun h => ?_⟩, by decide +kernel,
    ⟨fun h => ?_, fun h => ?_, fun _ => ?_, fun h => ?_⟩, by decide +kernel,
    ⟨fun h => ?_, fun h => ?_, fun h => ?_, fun _ => ?_⟩, by decide +kernel⟩
  case refine_2 =>
    refine ⟨rfl, Nat.le_refl _, rfl, fun k => ?_⟩
    show (Dict.get? [(0, ([] : Phrase))] k).isSome = true ↔ k < 1
    rw [Dict.get?, Dict.get?_nil]
    split
    · simpa using by omega
    · simpa using by omega
  case refine_7 =>
    exact ⟨length_seedsEncode, by decide, by decide, ⟨by decide +kernel, by decide +kernel⟩, by decide +kernel,
      by decide +kernel, .inl rfl⟩
  case refine_12 =>
    refine ⟨length_seedsDecode, by decide, by decide, by decide +kernel, fun k => ?_⟩
    show (Dict.get? seedsDecode k).isSome = true ↔ k < 256
    rw [get?_seedsDecode]
    by_cases hk : k < 256 <;> simp [hk]
  all_goals exact absurd h.2 (by simp)
/-- ResultDependsOnInputsAlone: two states with the same inputs and different histories. -/
theorem witness_same_inputs :
    SameInputs (loaded ababaBytes 0) { loaded ababaBytes 0 with status := .done, outLen := 3, freeCount := 9 } :=
  ⟨rfl, rfl, rfl, rfl, rfl, fun _ _ => rfl⟩

end Sys2Proof.Tests
end

section
/-! SUPPORT. Proofs: what one iteration of the engine can do, and that a command is a loop of iterations (R74, R171,
R260, R261). -/

namespace Sys2Proof.Machine

/-! ### What a decoded unit is (R97, R106) -/

theorem decodeToken_ok {bs : List Byte} {i : Instr} {n : Nat} (h : decodeToken bs = .ok i n) :
    i.format = .lz77tok ∧ n ≤ bs.length := by
  unfold decodeToken at h
  split at h
  · cases h
  · rename_i d a hd
    split at h
    · cases h
    · rename_i l b hl
      have ha := decodeVarint_size hd
      have hb := decodeVarint_size hl
      rw [List.length_drop] at hb
      split at h
      · cases h
      · rename_i mark rest hm
        have hlen := congrArg List.length hm
        simp only [List.length_drop, List.length_cons] at hlen
        split at h
        · split at h
          · cases h
          · cases h
            simp only [List.length_cons] at hlen
            exact ⟨rfl, by omega⟩
        · split at h <;> cases h <;> exact ⟨rfl, by omega⟩

theorem decodePair_ok {bs : List Byte} {i : Instr} {n : Nat} (h : decodePair bs = .ok i n) :
    i.format = .lz78pair ∧ n ≤ bs.length := by
  unfold decodePair at h
  split at h
  · cases h
  · rename_i index a hd
    split at h
    · cases h
    · rename_i c rest hc
      have hlen := congrArg List.length hc
      simp only [List.length_drop, List.length_cons] at hlen
      cases h
      exact ⟨rfl, by omega⟩

theorem decodeCode_ok {bs : List Byte} {i : Instr} {n : Nat} (h : decodeCode bs = .ok i n) :
    (∃ k, i = .lzwcode k) ∧ n = 2 ∧ n ≤ bs.length := by
  unfold decodeCode at h
  split at h
  · cases h
    exact ⟨⟨_, rfl⟩, rfl, by simp⟩
  · cases h

/-- A decoded unit takes only bytes that are there. -/
theorem decode_size {f : Format} {bs : List Byte} {i : Instr} {n : Nat} (h : decode f bs = .ok i n) :
    n ≤ bs.length := by
  cases f with
  | cmd8 | varint => cases bs <;> cases h; simp
  | lz77tok => exact (decodeToken_ok h).2
  | lz78pair => exact (decodePair_ok h).2
  | lzwcode => exact (decodeCode_ok h).2.2

/-- A unit read at a cursor inside the input ends inside it. -/
theorem State.unitAt_size {s : State} {f : Format} {p : Nat} {i : Instr} {n : Nat} (h : s.unitAt f p = .ok i n)
    (hp : p ≤ s.inLen) : p + n ≤ s.inLen := by
  have := decode_size h
  rw [State.length_inFrom] at this
  omega

/-- One byte of a varint is read below `IN_LEN`. -/
theorem State.unitAt_varint {s : State} {p : Nat} {i : Instr} {n : Nat} (h : s.unitAt .varint p = .ok i n) :
    p < s.inLen ∧ n = 1 ∧ i = decodeVarintByte (s.inByte p) := by
  have hlen := State.length_inFrom s p
  unfold State.unitAt at h
  cases hbs : s.inFrom p with
  | nil => rw [hbs] at h; cases h
  | cons x xs =>
    rw [hbs] at h hlen
    cases h
    have hp : p < s.inLen := by simp only [List.length_cons] at hlen; omega
    obtain ⟨m, hm⟩ : ∃ m, s.inLen - p = m + 1 := ⟨s.inLen - p - 1, by omega⟩
    rw [State.inFrom, hm, List.range'_succ, List.map_cons] at hbs
    cases hbs
    exact ⟨hp, rfl, rfl⟩

/-! ### Every append is an `EmitSeq` (R65, R66) -/

theorem emit_eq_emitSeq (b : Byte) (s : State) : emit b s = emitSeq [b] s := by
  cases h : emit b s <;> simp [emitSeq, h]

theorem emitNext_eq_emitSeq (s : State) : emitNext s = emitSeq s.work.tNext.toList s := by
  unfold emitNext
  split
  · rename_i c hc
    rw [hc]
    exact emit_eq_emitSeq c s
  · rename_i hc
    rw [hc]
    rfl

/-- The bytes LZ77D's copy appends: each is read after the one before it is written (R184). -/
def copiedBytes : Nat → Nat → State → List Byte
  | 0, _, _ => []
  | count + 1, src, s => s.outByte src :: copiedBytes count (src + 1) (s.append (s.outByte src))

theorem copyOut_eq_emitSeq (count src : Nat) (s : State) :
    copyOut count src s = emitSeq (copiedBytes count src s) s := by
  induction count generalizing src s with
  | zero => rfl
  | succ n ih =>
    by_cases hfull : s.par.outCap = some s.outLen
    · simp [copyOut, copiedBytes, emitSeq, emit, hfull]
    · simp [copyOut, copiedBytes, emitSeq, emit, hfull, ih]

@[simp] theorem State.appendSeq_work (s : State) (bs : List Byte) : (s.appendSeq bs).work = s.work := by
  rw [State.appendSeq_eq]

@[simp] theorem State.appendSeq_inLen (s : State) (bs : List Byte) : (s.appendSeq bs).inLen = s.inLen := by
  rw [State.appendSeq_eq]

/-! ### The matcher's result is inside its views (R151, R152) -/

theorem matchLen_le (rd : Nat → Byte) (i d fuel k : Nat) : matchLen rd i d fuel k ≤ k + fuel := by
  induction fuel generalizing k with
  | zero => exact Nat.le_refl k
  | succ n ih =>
    unfold matchLen
    split
    · exact (ih (k + 1)).trans (by omega)
    · omega

theorem scanDistances_le (rd : Nat → Byte) (i limit count d : Nat) (best : Nat × Nat) {m : Nat}
    (hd : d + count ≤ m + 1) (h1 : best.1 ≤ m) (h2 : best.2 ≤ limit) :
    (scanDistances rd i limit count d best).1 ≤ m ∧ (scanDistances rd i limit count d best).2 ≤ limit := by
  induction count generalizing d best with
  | zero => exact ⟨h1, h2⟩
  | succ n ih =>
    have hk := matchLen_le rd i d limit 0
    unfold scanDistances
    refine ih _ _ (by omega) ?_ ?_ <;> split <;> omega

theorem bestMatch_le (s : State) (i : Nat) :
    (bestMatch s i).1 ≤ s.windowSize i ∧ (bestMatch s i).2 ≤ s.lookaheadSize i :=
  scanDistances_le _ _ _ _ _ _ (by omega) (Nat.zero_le _) (Nat.zero_le _)

/-- The token that LZ77C forms at `POS` ends inside the input (R173). -/
theorem matchToken_span (s : State) (h : s.work.pos < s.inLen) :
    s.work.pos + tokenSpan (matchToken s).work ≤ s.inLen := by
  have hk : (bestMatch s s.work.pos).2 ≤ min s.lsize (s.inLen - s.work.pos) := (bestMatch_le s _).2
  by_cases hin : s.work.pos + (bestMatch s s.work.pos).2 < s.inLen
  · have hspan : tokenSpan (matchToken s).work = (bestMatch s s.work.pos).2 + 1 := by
      simp [tokenSpan, matchToken, runMatcher, State.symbolAt, hin]
    omega
  · have hspan : tokenSpan (matchToken s).work = (bestMatch s s.work.pos).2 := by
      simp [tokenSpan, matchToken, runMatcher, State.symbolAt, hin]
    omega

/-! ### A state further on in the same command -/

/-- `t` is `s` with bytes appended to `OUT`, where they fit, and another working state, whose cursor is inside the input
if it was there before (R34, R65). -/
structure Extends (s t : State) : Prop where
  appends : ∃ bs w, ¬ s.overflowsBy bs.length ∧ t = (s.appendSeq bs).setWork w
  posInside : s.work.pos ≤ s.inLen → t.work.pos ≤ s.inLen

theorem not_overflowsBy_zero (s : State) : ¬ s.overflowsBy 0 := fun ⟨_, _, h1, h2⟩ => absurd h2 (Nat.not_lt.mpr h1)

/-- A new working state with the cursor inside the input. -/
theorem Extends.setWork (s : State) (w : Work) (h : s.work.pos ≤ s.inLen → w.pos ≤ s.inLen) :
    Extends s (s.setWork w) := ⟨⟨[], w, not_overflowsBy_zero s, rfl⟩, h⟩

theorem Extends.refl (s : State) : Extends s s := .setWork s s.work id

theorem Extends.appendSeq {s : State} {bs : List Byte} (h : ¬ s.overflowsBy bs.length) : Extends s (s.appendSeq bs) :=
  ⟨⟨bs, s.work, h, by rw [State.appendSeq_eq]; rfl⟩, by simp⟩

theorem Extends.par {s t : State} (h : Extends s t) : t.par = s.par := by
  obtain ⟨bs, w, -, rfl⟩ := h.appends
  simp [State.appendSeq_eq]

theorem Extends.cmd {s t : State} (h : Extends s t) : t.cmd = s.cmd := by
  obtain ⟨bs, w, -, rfl⟩ := h.appends
  simp [State.appendSeq_eq]

theorem Extends.inLen {s t : State} (h : Extends s t) : t.inLen = s.inLen := by
  obtain ⟨bs, w, -, rfl⟩ := h.appends
  simp

theorem Extends.trans {s t u : State} (h : Extends s t) (h' : Extends t u) : Extends s u := by
  have hpos : s.work.pos ≤ s.inLen → u.work.pos ≤ s.inLen := fun hp =>
    h.inLen ▸ h'.posInside (h.inLen.symm ▸ h.posInside hp)
  obtain ⟨bs, w, hbs, rfl⟩ := h.appends
  obtain ⟨cs, v, hcs, rfl⟩ := h'.appends
  refine ⟨⟨bs ++ cs, v, ?_, by rw [State.appendSeq_append]; simp only [State.appendSeq_eq]; rfl⟩, hpos⟩
  rintro ⟨c, hcap, hle, hlt⟩
  by_cases hb : c < s.outLen + bs.length
  · exact hbs ⟨c, hcap, hle, hb⟩
  · refine hcs ⟨c, ?_, ?_, ?_⟩ <;> simp only [State.appendSeq_eq, State.setWork_par, State.setWork_outLen]
    · exact hcap
    · omega
    · rw [List.length_append] at hlt
      omega

/-! ### What an iteration can do -/

/-- All that one iteration of a command that works can do: the command goes on, fails, or ends; MATCH and VDEC end with
results (R133, R153). -/
inductive Iteration (s : State) : State → Prop where
  | goesOn {u : State} (h : Extends s u) : Iteration s u
  | raises {u : State} (h : Extends s u) (k : ErrKind) : Iteration s (raise k u)
  | finishes {u : State} (h : Extends s u) : Iteration s (finish u)
  | matched {u : State} (h : Extends s u) (d k : Nat) (r : BitVec 9) (window : d ≤ u.wsize) (lookahead : k ≤ u.lsize) :
      Iteration s (finish { u with res0 := d, res1 := k, res2 := r })
  | varint {u : State} (h : Extends s u) (v o : Nat) (value : u.par.fits v) (offset : o ≤ u.inLen) :
      Iteration s (finish { u with res0 := v, res1 := o })

theorem Iteration.cmd {s t : State} (h : Iteration s t) : t.cmd = s.cmd := by
  cases h with
  | goesOn hu => exact hu.cmd
  | raises hu k => rw [raise_cmd, hu.cmd]
  | finishes hu | matched hu | varint hu => exact hu.cmd

/-- A part of an iteration before the rest of it. -/
theorem Iteration.of_extends {s u t : State} (h : Extends s u) (h' : Iteration u t) : Iteration s t := by
  cases h' with
  | goesOn hu => exact .goesOn (h.trans hu)
  | raises hu k => exact .raises (h.trans hu) k
  | finishes hu => exact .finishes (h.trans hu)
  | matched hu d k r hd hk => exact .matched (h.trans hu) d k r hd hk
  | varint hu v o hv ho => exact .varint (h.trans hu) v o hv ho

theorem Iteration.raise (k : ErrKind) (s : State) : Iteration s (raise k s) := .raises (.refl s) k

theorem Iteration.finish (s : State) : Iteration s (finish s) := .finishes (.refl s)

theorem Iteration.setWork (s : State) (w : Work) (h : s.work.pos ≤ s.inLen → w.pos ≤ s.inLen) :
    Iteration s (s.setWork w) := .goesOn (.setWork s w h)

/-- Bytes are appended, or `Overflow` is raised; then the iteration goes on. -/
theorem Iteration.orRaise_emitSeq (s : State) (bs : List Byte) (go : State → State)
    (hgo : Iteration (s.appendSeq bs) (go (s.appendSeq bs))) : Iteration s (orRaise s (emitSeq bs s) go) := by
  rcases emitSeq_spec bs s with ⟨-, h⟩ | ⟨hroom, h⟩ <;> rw [h]
  · exact .raise .overflow s
  · exact .of_extends (.appendSeq hroom) hgo

/-! ### The iterations of the encoders, VENC and MATCH -/

theorem vencBody_iteration (s : State) : Iteration s (vencBody s) := .orRaise_emitSeq s _ _ (.finish _)

theorem matchBody_iteration (s : State) : Iteration s (matchBody s) := by
  unfold matchBody
  split
  · exact .raise .illegalOperation s
  · obtain ⟨hd, hk⟩ := bestMatch_le s s.arg0
    exact .matched (u := runMatcher s.arg0 s) (.setWork s _ id) _ _ _ (hd.trans (Nat.min_le_left _ _))
      (hk.trans (Nat.min_le_left _ _))

theorem lz77cIter_iteration (s : State) : Iteration s (lz77cIter s) := by
  unfold lz77cIter
  split
  · rename_i hpos
    have hspan := matchToken_span s hpos
    refine .of_extends (u := matchToken s) (.setWork s _ id) (.orRaise_emitSeq _ _ _ (.setWork _ _ fun _ => ?_))
    rw [State.appendSeq_work, State.appendSeq_inLen]
    exact hspan
  · exact .finish s

theorem lz78cByte_iteration (b : Byte) (s : State) : Iteration s (lz78cByte b s) := by
  unfold lz78cByte
  split
  · exact .setWork s _ id
  · exact .orRaise_emitSeq s _ _ (.setWork _ _ id)

theorem lz78cFlush_iteration (s : State) : Iteration s (lz78cFlush s) := by
  unfold lz78cFlush
  split
  · exact .finish s
  · exact .orRaise_emitSeq s _ _ (.finish _)

theorem lz78cIter_iteration (s : State) : Iteration s (lz78cIter s) := by
  unfold lz78cIter
  split
  · rename_i hpos
    exact .of_extends (u := s.advance 1) (.setWork s _ fun _ => hpos) (lz78cByte_iteration _ _)
  · exact lz78cFlush_iteration s

theorem insertWe_extends (p : Phrase) (s : State) : Extends s (insertWe p s) := by
  unfold insertWe
  split
  · exact .setWork s _ id
  · exact .refl s

theorem lzwcByte_iteration (b : Byte) (s : State) : Iteration s (lzwcByte b s) := by
  unfold lzwcByte
  split
  · exact .setWork s _ id
  · exact .orRaise_emitSeq s _ _ (.of_extends (insertWe_extends _ _) (.setWork _ _ id))

theorem lzwcLast_iteration (s : State) : Iteration s (lzwcLast s) := by
  unfold lzwcLast
  split
  · exact .finish s
  · exact .orRaise_emitSeq s _ _ (.finish _)

theorem lzwcIter_iteration (s : State) : Iteration s (lzwcIter s) := by
  unfold lzwcIter
  split
  · rename_i hpos
    exact .of_extends (u := s.advance 1) (.setWork s _ fun _ => hpos) (lzwcByte_iteration _ _)
  · exact lzwcLast_iteration s

/-! ### The iterations of the decoders -/

theorem applyToken_iteration (s : State) : Iteration s (applyToken s) := by
  unfold applyToken
  split
  · exact .raise .corruptStream s
  · split
    · exact .raise .corruptStream s
    · rw [copyOut_eq_emitSeq]
      refine .orRaise_emitSeq s _ _ ?_
      rw [emitNext_eq_emitSeq]
      exact .orRaise_emitSeq _ _ _ (.goesOn (.refl _))

theorem pairEffect_iteration (index : Nat) (c : Byte) (s : State) : Iteration s (pairEffect index c s) := by
  unfold pairEffect
  split
  · exact .raise .corruptStream s
  · exact .orRaise_emitSeq s _ _ (.setWork _ _ id)

theorem insertWd_extends (p : Phrase) (s : State) : Extends s (insertWd p s) := by
  unfold insertWd
  split
  · exact .setWork s _ id
  · exact .refl s

theorem firstCode_iteration (k : Nat) (s : State) : Iteration s (firstCode k s) := by
  unfold firstCode
  split
  · exact .raise .corruptStream s
  · exact .orRaise_emitSeq s _ _ (.setWork _ _ id)

theorem laterCode_iteration (k : Nat) (s : State) : Iteration s (laterCode k s) := by
  unfold laterCode
  split
  · exact .raise .corruptStream s
  · exact .orRaise_emitSeq s _ _ (.of_extends (insertWd_extends _ _) (.setWork _ _ id))

theorem codeEffect_iteration (k : CodeWord) (s : State) : Iteration s (codeEffect k s) := by
  unfold codeEffect
  split
  · exact firstCode_iteration _ s
  · exact laterCode_iteration _ s

theorem vdecEnd_iteration (s : State) (h : s.work.vOff ≤ s.inLen) : Iteration s (vdecEnd s) := by
  unfold vdecEnd
  split
  · exact .varint (.refl s) _ _ ‹_› h
  · exact .raise .overflow s

theorem lastEffect_iteration (g : Group) (s : State) (h : s.cmd = 0x02#8 → s.work.vOff ≤ s.inLen) :
    Iteration s (lastEffect g s) := by
  have hgroup : Extends s (addGroup g s) := .setWork s _ id
  unfold lastEffect
  split
  · exact .of_extends hgroup (vdecEnd_iteration _ (h ‹_›))
  · exact .goesOn hgroup

/-- The effect of a stream unit; in VDEC the varint's offset is inside the input (R132). -/
theorem unitEffect_iteration (i : Instr) (s : State) (h : s.cmd = 0x02#8 → s.work.vOff ≤ s.inLen) :
    Iteration s (unitEffect i s) := by
  cases i with
  | venc | vdec | matcher | lz77c | lz77d | lz78c | lz78d | lzwc | lzwd | clr | illegal => exact .goesOn (.refl s)
  | varintCont g => exact .setWork s _ id
  | varintLast g => exact lastEffect_iteration g s h
  | lz77tokNolit d l => exact .of_extends (u := s.setToken d l none) (.setWork s _ id) (applyToken_iteration _)
  | lz77tokLit d l c => exact .of_extends (u := s.setToken d l (some c)) (.setWork s _ id) (applyToken_iteration _)
  | lz77tokReserved d l m => exact .raise .corruptStream s
  | lz78pair index c => exact pairEffect_iteration index c s
  | lzwcode k => exact codeEffect_iteration k s

theorem decoderIter_iteration (f : Format) (s : State) (hcmd : s.cmd ≠ 0x02#8) : Iteration s (decoderIter f s) := by
  unfold decoderIter
  split
  · rename_i hpos
    split
    · exact .raise _ s
    · rename_i i n hu
      have hend := State.unitAt_size hu hpos.le
      exact .of_extends (.setWork s _ fun _ => hend) (unitEffect_iteration i _ fun h => absurd h hcmd)
  · exact .finish s

theorem vdecIter_iteration (s : State) : Iteration s (vdecIter s) := by
  unfold vdecIter
  split
  · exact .raise _ s
  · rename_i i n hu
    obtain ⟨hlt, rfl, -⟩ := State.unitAt_varint hu
    exact .of_extends (u := s.advanceVarint 1) (.setWork s _ id) (unitEffect_iteration i _ fun _ => hlt)

theorem lzwdIter_iteration (s : State) (hcmd : s.cmd ≠ 0x02#8) : Iteration s (lzwdIter s) := by
  unfold lzwdIter
  split
  · split
    · exact .raise .malformedInput s
    · split
      · exact .raise .emptyStream s
      · exact decoderIter_iteration _ s hcmd
  · exact decoderIter_iteration _ s hcmd

/-! ### The engine's iteration -/

theorem guardLen_iteration {iter : State → State} (s : State) (h : Iteration s (iter s)) :
    Iteration s (guardLen iter s) := by
  unfold guardLen
  split
  · exact .raise .illegalOperation s
  · exact h

/-- One iteration of the engine is one of a command that works, or CLR's (R264). -/
theorem engineIter_cases (s : State) : Iteration s (engineIter s) ∨ engineIter s = clear s := by
  have hcmd {n : Nat} (h : s.cmd.toNat = n) (hn : n ≠ 2) : s.cmd ≠ 0x02#8 := fun hc => hn (by rw [← h, hc]; rfl)
  unfold engineIter
  split
  · exact .inl (vencBody_iteration s)
  · exact .inl (guardLen_iteration s (vdecIter_iteration s))
  · exact .inl (guardLen_iteration s (matchBody_iteration s))
  · exact .inl (guardLen_iteration s (lz77cIter_iteration s))
  · exact .inl (guardLen_iteration s (decoderIter_iteration _ s (hcmd ‹_› (by decide))))
  · exact .inl (guardLen_iteration s (lz78cIter_iteration s))
  · exact .inl (guardLen_iteration s (decoderIter_iteration _ s (hcmd ‹_› (by decide))))
  · exact .inl (guardLen_iteration s (lzwcIter_iteration s))
  · exact .inl (guardLen_iteration s (lzwdIter_iteration s (hcmd ‹_› (by decide))))
  · exact .inr rfl
  · exact .inl (.raise .illegalOperation s)

/-- The opcode stays in `CMD` while the command runs and when it ends (R22). -/
theorem engineIter_cmd (s : State) : (engineIter s).cmd = s.cmd := by
  rcases engineIter_cases s with h | h
  · exact h.cmd
  · rw [h]
    rfl

/-! ### A command is its start and then a loop of iterations -/

theorem engineIter_of_unassigned {s : State} (h : ¬ assignedOpcode s.cmd) :
    engineIter s = raise .illegalOperation s := by
  unfold engineIter
  split <;> simp_all [assignedOpcode]

/-- A loop whose iteration is the engine's own for the command in `CMD`. -/
theorem runLoop_eq_engineIter {op : Byte} {iter : State → State} (hiter : ∀ s, s.cmd = op → engineIter s = iter s)
    (n : Nat) {s : State} (h : s.cmd = op) : runLoop iter n s = runLoop engineIter n s := by
  induction n generalizing s with
  | zero => rfl
  | succ n ih =>
    unfold runLoop
    rw [← hiter s h, ih ((engineIter_cmd s).trans h)]

/-- How many iterations are enough for a command on `n` symbols (R174, R261). -/
def iterations (i : Instr) (n : Nat) : Nat :=
  match i with
  | .venc | .matcher | .clr | .illegal _ => 1
  | _ => n + 2

theorem issue_once {op : Byte} {body : State → State} {s : State} (hb : s.status ≠ .busy)
    (h : ∀ s, s.cmd = op → engineIter s = body s) :
    issue op body s = .next (runLoop engineIter 1 (start op s)) := by
  rw [issue_of_not_busy hb, runLoop_succ_of_busy _ _ (start_status op s), h _ (start_cmd op s)]
  rfl

theorem issue_runStream {op : Byte} {iter : State → State} {s : State} (hb : s.status ≠ .busy)
    (h : ∀ s, s.cmd = op → engineIter s = guardLen iter s) :
    issue op (runStream iter) s = .next (runLoop engineIter (s.inLen + 2) (start op s)) := by
  rw [issue_of_not_busy hb, runStream, runLoop_eq_engineIter h _ (start_cmd op s), (start_keepsHostSide op s).inLen]

/-- A command's one transition is its start and then iterations of the engine (R74, R260, R261). -/
theorem exec_eq_runLoop {i : Instr} {s : State} (hi : IsIssued i) (hb : s.status ≠ .busy) :
    exec i s = .next (runLoop engineIter (iterations i s.inLen) (start (opcode i) s)) := by
  obtain ⟨hformat, hwf⟩ := hi
  cases i with
  | venc | clr => exact issue_once hb fun s h => by rw [engineIter, h]; rfl
  | matcher => exact issue_once hb fun s h => by rw [engineIter, h]; rfl
  | illegal op => exact issue_once hb fun s h => engineIter_of_unassigned (by rw [h]; exact hwf)
  | vdec | lz77c | lz77d | lz78c | lz78d | lzwc | lzwd =>
    exact issue_runStream hb fun s h => by rw [engineIter, h]; rfl
  | varintCont | varintLast | lz77tokNolit | lz77tokLit | lz77tokReserved | lz78pair | lzwcode => cases hformat

/-- Every opcode selects an instruction a `CMD` write can issue (R92, R93). -/
theorem isIssued_decodeCommand (op : Byte) : IsIssued (decodeCommand op) := by
  unfold decodeCommand
  split
  iterate 10 exact ⟨rfl, trivial⟩
  refine ⟨rfl, ?_⟩
  simp only [Instr.wellFormed, assignedOpcode, imp_false] at *
  omega

end Sys2Proof.Machine
end

section
/-! SUPPORT. Proofs: every step keeps the host-visible invariant (O57). -/

namespace Sys2Proof

/-! ### Widths and capacities (R8, R21) -/

theorem Params.fits_trunc (p : Params) (v : Nat) : p.fits (p.trunc v) := by
  unfold Params.fits Params.trunc
  split <;> simp

theorem Params.fits_of_le {p : Params} {u v : Nat} (h : u ≤ v) (hv : p.fits v) : p.fits u := by
  unfold Params.fits Params.trunc at *
  split
  · rfl
  · rename_i w hw
    simp only [hw] at hv
    have := Nat.mod_lt v (Nat.two_pow_pos w)
    exact Nat.mod_eq_of_lt (by omega)

theorem Params.fits_zero (p : Params) : p.fits 0 := by
  unfold Params.fits Params.trunc
  split <;> simp

/-- A number that a capacity admits fits a register (R8). -/
theorem Params.fits_of_capOk {p : Params} {cap : Option Nat} {v : Nat} (h : p.capOk cap)
    (hv : ∀ c, cap = some c → v ≤ c) : p.fits v := by
  obtain ⟨hnone, hsome⟩ := h
  cases cap with
  | none => simp [Params.fits, Params.trunc, hnone rfl]
  | some c => exact Params.fits_of_le (hv c rfl) (hsome c rfl).2

end Sys2Proof

namespace Sys2Proof.Machine

theorem inside_iff (cap : Option Nat) (a : Nat) : inside cap a = true ↔ ∀ c, cap = some c → a < c := by
  cases cap <;> simp [inside]

theorem State.roomFor_of_not_overflowsBy {s : State} {n : Nat} (hroom : s.roomFor s.outLen) (h : ¬ s.overflowsBy n) :
    s.roomFor (s.outLen + n) := fun c hc => by
  by_contra hlt
  exact h ⟨c, hc, hroom c hc, Nat.lt_of_not_le hlt⟩

/-- Every entry of a memory after a sequence of writes is an old one or inside the range written. -/
theorem Mem.mem_setSeq {m : Mem} {a : Nat} {bs : List Byte} {e : Host.Cell} (h : e ∈ m.setSeq a bs) :
    e ∈ m ∨ (a ≤ e.1 ∧ e.1 < a + bs.length) := by
  induction bs generalizing m a with
  | nil => exact .inl h
  | cons b bs ih =>
    rw [List.length_cons]
    rcases ih h with h | h
    · rcases Mem.mem_set h with rfl | h
      · exact .inr ⟨Nat.le_refl a, by omega⟩
      · exact .inl h
    · exact .inr (by omega)

/-! ### The invariant through the shared operations -/

/-- Bytes that fit are appended. -/
theorem Inv.appendSeq {s : State} {bs : List Byte} (h : Inv s) (hroom : s.roomFor (s.outLen + bs.length)) :
    Inv (s.appendSeq bs) := by
  rw [State.appendSeq_eq]
  exact { h with
    outCanonical := Mem.setSeq_wf _ _ h.outCanonical
    outInside := fun e he => by
      rcases Mem.mem_setSeq he with he | he
      · exact h.outInside e he
      · exact (inside_iff _ _).mpr fun c hc => lt_of_lt_of_le he.2 (hroom c hc)
    outRoom := hroom
    outWritten := fun a ha => by
      change a < s.outLen + bs.length at ha
      rw [Mem.get?_setSeq]
      split
      · rw [List.getElem?_eq_getElem (by omega)]
        rfl
      · exact h.outWritten a (by omega) }

/-- A new working state with the cursor inside the input (R34). -/
theorem Inv.setWork {s : State} {w : Work} (h : Inv s)
    (hw : s.status = .busy → 4 ≤ s.cmd.toNat → s.cmd.toNat ≤ 9 → w.pos ≤ s.inLen) : Inv (s.setWork w) :=
  { h with posInside := hw }

theorem Inv.extends {s u : State} (h : Inv s) (hu : Extends s u) : Inv u := by
  have hpos := hu.posInside
  obtain ⟨bs, w, hroom, rfl⟩ := hu.appends
  refine (h.appendSeq (State.roomFor_of_not_overflowsBy h.outRoom hroom)).setWork fun hb h4 h9 => ?_
  rw [State.appendSeq_eq] at hb h4 h9 ⊢
  simpa using hpos (h.posInside hb h4 h9)

theorem Inv.clearOut {s : State} (h : Inv s) : Inv s.clearOut :=
  { h with
    outCanonical := List.Pairwise.nil
    outInside := fun _ he => absurd he List.not_mem_nil
    outRoom := fun _ _ => Nat.zero_le _
    outWritten := fun a ha => absurd ha (Nat.not_lt_zero a) }

theorem Inv.clearOwned {s : State} (h : Inv s) : Inv s.clearOwned := by
  unfold State.clearOwned
  split
  · exact h.clearOut
  · exact h

theorem Inv.loseOwnedResults {s : State} (h : Inv s) : Inv s.loseOwnedResults := by
  unfold State.loseOwnedResults
  split
  · exact { h with res0Fits := Params.fits_trunc _ _, res1Fits := Params.fits_trunc _ _ }
  · exact h

/-- Error completion (R287). -/
theorem Inv.raise {s : State} (h : Inv s) (k : ErrKind) : Inv (raise k s) := by
  have hfail : Inv (s.fail k) := { h with
    kindIff := by simp
    posInside := fun hb => absurd hb (by simp) }
  exact { hfail.clearOwned.loseOwnedResults with posInside := fun hb => absurd hb (by simp) }

/-- Success, with results that fit their registers (R30, R31, R261). -/
theorem Inv.finish {s : State} (h : Inv s) (hk : s.kind = none) {r0 r1 : Nat} (r2 : BitVec 9) (h0 : s.par.fits r0)
    (h1 : s.par.fits r1) : Inv (finish { s with res0 := r0, res1 := r1, res2 := r2 }) :=
  { h with
    kindIff := by simp [hk]
    res0Fits := h0
    res1Fits := h1
    posInside := fun hb => absurd hb (by simp) }

/-- CLR's body (R264). -/
theorem Inv.clear {s : State} (h : Inv s) : Inv (clear s) :=
  { h with
    outRoom := fun _ _ => Nat.zero_le _
    outWritten := fun a ha => absurd ha (Nat.not_lt_zero a)
    kindIff := by simp [Machine.clear]
    posInside := fun hb => absurd hb (by simp [Machine.clear]) }

/-! ### The engine and the commands -/

theorem Inv.kind_of_not_error {s : State} (h : Inv s) (hs : s.status ≠ .error) : s.kind = none :=
  not_not.mp fun hk => hs (h.kindIff.mp hk)

/-- Every iteration of a running command keeps the invariant. -/
theorem Inv.engineIter {s : State} (h : Inv s) (hb : s.status = .busy) : Inv (engineIter s) := by
  have hk {u : State} (hu : Extends s u) : u.kind = none := by
    obtain ⟨bs, w, -, rfl⟩ := hu.appends
    rw [State.appendSeq_eq]
    exact h.kind_of_not_error (by simp [hb])
  rcases engineIter_cases s with hit | hclr
  · generalize Machine.engineIter s = t at hit
    cases hit with
    | goesOn hu => exact h.extends hu
    | raises hu k => exact (h.extends hu).raise k
    | @finishes u hu =>
      have hi := h.extends hu
      exact hi.finish (hk hu) u.res2 hi.res0Fits hi.res1Fits
    | matched hu d k r hd hl =>
      have hi := h.extends hu
      exact hi.finish (hk hu) r (Params.fits_of_le hd hi.wsizeFits) (Params.fits_of_le hl hi.lsizeFits)
    | @varint u hu v o hv ho =>
      have hi := h.extends hu
      exact hi.finish (hk hu) u.res2 hv (Params.fits_of_le ho hi.inLenFits)
  · rw [hclr]
    exact h.clear

/-- The commands with a stream cursor start at its index 0 (R40). -/
theorem startWork_pos {op : Byte} (arg0 : Nat) (w : Work) (h4 : 4 ≤ op.toNat) (h9 : op.toNat ≤ 9) :
    (startWork op arg0 w).pos = 0 := by
  have hop : op.toNat = 4 ∨ op.toNat = 5 ∨ op.toNat = 6 ∨ op.toNat = 7 ∨ op.toNat = 8 ∨ op.toNat = 9 := by omega
  rcases hop with h | h | h | h | h | h <;> simp only [startWork, h]

theorem start_eq_clearOwned (op : Byte) (s : State) :
    start op s = ((s.latch op).setWork (startWork op s.arg0 s.work)).clearOwned := by
  unfold start State.clearOwned
  rw [State.setWork_cmd]
  split <;> rfl

/-- Command start (R40, R260). -/
theorem Inv.start {s : State} (h : Inv s) (op : Byte) : Inv (start op s) := by
  rw [start_eq_clearOwned]
  refine Inv.clearOwned { h with
    kindIff := by simp
    posInside := fun _ h4 h9 => ?_ }
  exact (startWork_pos s.arg0 s.work h4 h9).trans_le (Nat.zero_le _)

theorem Inv.exec {s t : State} {i : Instr} (h : Inv s) (hi : IsIssued i) (hb : s.status ≠ .busy)
    (ht : exec i s = .next t) : Inv t := by
  rw [exec_eq_runLoop hi hb] at ht
  cases ht
  exact runLoop_keeps Inv Machine.engineIter (fun _ hs hbusy => hs.engineIter hbusy) _ (h.start _)

/-! ### The host's moves -/

theorem Inv.setHost {s : State} (h : Inv s) (rest : List HostOp) : Inv { s with host := rest } := { h with }

theorem Inv.writeReg {s t : State} {r : Reg} {v : Nat} (h : Inv s) (hb : s.status ≠ .busy)
    (ht : writeReg s r v = .next t) : Inv t := by
  cases r with
  | cmd => exact h.exec (isIssued_decodeCommand _) hb ht
  | wsize => cases ht; exact { h with wsizeFits := Params.fits_trunc _ _ }
  | lsize => cases ht; exact { h with lsizeFits := Params.fits_trunc _ _ }
  | inLen => cases ht; exact { h with inLenFits := Params.fits_trunc _ _, posInside := fun hs => absurd hs hb }
  | arg0 => cases ht; exact { h with arg0Fits := Params.fits_trunc _ _ }
  | status | errkind | outLen | res0 | res1 | res2 => cases ht; exact h

/-- The host's byte of `IN` is inside its capacity (R48). -/
theorem Inv.writeIn {s : State} {a : Nat} (h : Inv s) (b : Byte) (ha : inside s.par.inCap a = true) :
    Inv { s with inBuf := s.inBuf.set a b } :=
  { h with
    inCanonical := Mem.set_wf _ _ h.inCanonical
    inInside := fun e he => by
      rcases Mem.mem_set he with rfl | he
      · exact ha
      · exact h.inInside e he }

theorem Inv.readOut {s : State} (h : Inv s) (a : Nat) : Inv (readOut a s) := by
  unfold Machine.readOut
  split <;> exact { h with }

/-- The move of an output that fits `IN` (R76). -/
theorem Inv.moveOutToIn {s : State} (h : Inv s) (hb : s.status ≠ .busy)
    (hin : s.outLen = 0 ∨ inside s.par.inCap (s.outLen - 1) = true) : Inv (moveOutToIn s) :=
  { h with
    inCanonical := Mem.setSeq_wf _ _ h.inCanonical
    inInside := fun e he => by
      rcases Mem.mem_setSeq he with he | he
      · exact h.inInside e he
      · rw [State.length_output] at he
        refine (inside_iff _ _).mpr fun c hc => ?_
        have := hin.resolve_left (by omega)
        have := (inside_iff _ _).mp this c hc
        omega
    inLenFits := Params.fits_of_capOk h.params.2.1 h.outRoom
    posInside := fun hs => absurd hs hb }

/-- The reset state of an admitted implementation, whatever the free draw (R52). -/
theorem inv_resetFrom {p : Params} (hp : p.wf) (n : Nat) : Inv (State.resetFrom p n) where
  params := hp
  inCanonical := List.Pairwise.nil
  outCanonical := List.Pairwise.nil
  inInside _ he := absurd he List.not_mem_nil
  outInside _ he := absurd he List.not_mem_nil
  outRoom _ _ := Nat.zero_le _
  outWritten a ha := absurd ha (Nat.not_lt_zero a)
  kindIff := by simp [State.resetFrom]
  wsizeFits := hp.2.2.2
  lsizeFits := hp.2.2.1
  inLenFits := p.fits_zero
  arg0Fits := p.fits_zero
  res0Fits := p.fits_trunc _
  res1Fits := p.fits_trunc _
  posInside hb := by cases hb

theorem Inv.hostMove {s t : State} {op : HostOp} (h : Inv s) (hb : s.status ≠ .busy) (ht : hostMove op s = .next t) :
    Inv t := by
  cases op with
  | writeReg off v =>
    simp only [Machine.hostMove] at ht
    split at ht
    · exact h.writeReg hb ht
    · cases ht; exact h
    · cases ht
  | readReg off =>
    simp only [Machine.hostMove] at ht
    split at ht
    · cases ht; exact { h with }
    · cases ht; exact { h with }
    · cases ht
  | writeIn a b =>
    simp only [Machine.hostMove] at ht
    split at ht
    · cases ht; exact h.writeIn b ‹_›
    · cases ht
  | readOut a =>
    simp only [Machine.hostMove] at ht
    split at ht
    · cases ht; exact h.readOut a
    · cases ht
  | copyOutToIn =>
    simp only [Machine.hostMove] at ht
    split at ht
    · cases ht; exact h.moveOutToIn hb ‹_›
    · cases ht
  | reset =>
    cases ht
    exact { inv_resetFrom h.params s.freeCount with }

/-- Settles O57: an iteration of the engine keeps the invariant, and so does every move of the host. -/
theorem stepKeepsInvariant : Obligations.StepKeepsInvariant := by
  intro s t h ht
  unfold step at ht
  split at ht
  · cases ht
    exact h.engineIter ‹_›
  · rename_i hb
    split at ht
    · cases ht
      exact h
    · rename_i op rest _
      exact (h.setHost rest).hostMove hb ht

end Sys2Proof.Machine
end

section
/-! SUPPORT. Proofs: two runs of a command on the same inputs go alike (O59). -/

namespace Sys2Proof.Machine

/-! ### What two states with the same inputs read (R15, R265) -/

section
variable {s t : State}

theorem SameInputs.of_keepsHostSide {s' t' : State} (h : SameInputs s t) (hs : KeepsHostSide s s')
    (ht : KeepsHostSide t t') : SameInputs s' t' where
  par := by rw [ht.par, hs.par, h.par]
  wsize := by rw [ht.wsize, hs.wsize, h.wsize]
  lsize := by rw [ht.lsize, hs.lsize, h.lsize]
  inLen := by rw [ht.inLen, hs.inLen, h.inLen]
  arg0 := by rw [ht.arg0, hs.arg0, h.arg0]
  inByte a ha := by rw [ht.inByte, hs.inByte, h.inByte a (hs.inLen ▸ ha)]

theorem SameInputs.inTooLong (h : SameInputs s t) : t.inTooLong = s.inTooLong := by
  simp only [State.inTooLong, h.par, h.inLen]

theorem SameInputs.symbolAt (h : SameInputs s t) (j : Nat) : t.symbolAt j = s.symbolAt j := by
  unfold State.symbolAt
  rw [h.inLen]
  split
  · rw [h.inByte j ‹_›]
  · rfl

theorem SameInputs.unitAt (h : SameInputs s t) (f : Format) (p : Nat) : t.unitAt f p = s.unitAt f p := by
  have hin : t.inFrom p = s.inFrom p := by
    rw [State.inFrom, State.inFrom, h.inLen]
    refine List.map_congr_left fun a ha => h.inByte a ?_
    have := List.mem_range'_1.mp ha
    omega
  rw [State.unitAt, State.unitAt, hin]

theorem matchLen_congr {rd rd' : Nat → Byte} {i d fuel k : Nat}
    (h : ∀ a j, j < k + fuel → a ≤ i + j → rd' a = rd a) : matchLen rd' i d fuel k = matchLen rd i d fuel k := by
  induction fuel generalizing k with
  | zero => rfl
  | succ n ih =>
    rw [matchLen, matchLen, h (i - d + k) k (by omega) (by omega), h (i + k) k (by omega) (Nat.le_refl _),
      ih fun a j hj => h a j (by omega)]

theorem scanDistances_congr {rd rd' : Nat → Byte} {i limit count d : Nat} {best : Nat × Nat}
    (h : ∀ a j, j < limit → a ≤ i + j → rd' a = rd a) :
    scanDistances rd' i limit count d best = scanDistances rd i limit count d best := by
  induction count generalizing d best with
  | zero => rfl
  | succ n ih =>
    have hk : matchLen rd' i d limit 0 = matchLen rd i d limit 0 := matchLen_congr fun a j hj => h a j (by omega)
    simp only [scanDistances, hk, ih]

/-- The matcher's search reads the input only (R152). -/
theorem SameInputs.bestMatch (h : SameInputs s t) (i : Nat) : bestMatch t i = bestMatch s i := by
  simp only [Machine.bestMatch, State.lookaheadSize, State.windowSize, h.wsize, h.lsize, h.inLen]
  exact scanDistances_congr fun a j hj ha => h.inByte a (by omega)

/-! ### Two runs that look alike from outside -/

/-- What two runs on the same inputs have in common: the inputs, how far the command is, and its output. -/
structure LooksAlike (s t : State) : Prop where
  inputs : SameInputs s t
  cmd : t.cmd = s.cmd
  status : t.status = s.status
  kind : t.kind = s.kind
  output : ownsOut s.cmd = true → t.output = s.output

/-- Two runs of the command with opcode `op` that look alike. -/
structure RunningAlike (op : Byte) (s t : State) : Prop where
  looks : LooksAlike s t
  running : s.running op

/-- `CUR` is empty or a key of `DICTWE`, which has every single byte as a key (R35, R43). -/
def CurKnown (w : Work) : Prop :=
  (∀ b : Byte, (Dict.get? w.dictwe [b]).isSome = true) ∧ (w.cur = [] ∨ (Dict.get? w.dictwe w.cur).isSome = true)

/-- The working registers that the rest of the command with opcode `op` reads are the same in two runs. A register that
the command's start leaves unspecified (R40, R52) is not among them before the command sets it. -/
def SameWork (op : Byte) (v w : Work) : Prop :=
  match op.toNat with
  | 0x02 => w.vValue = v.vValue ∧ w.vCount = v.vCount ∧ w.vOff = v.vOff
  | 0x04 | 0x05 => w.pos = v.pos
  | 0x06 => w.pos = v.pos ∧ w.dict78e = v.dict78e ∧ w.cur = v.cur ∧ w.nextCode = v.nextCode
  | 0x07 => w.pos = v.pos ∧ w.dict78d = v.dict78d ∧ w.nextCode = v.nextCode
  | 0x08 => w.pos = v.pos ∧ w.dictwe = v.dictwe ∧ w.cur = v.cur ∧ w.nextCode = v.nextCode ∧ CurKnown v
  | 0x09 => w.pos = v.pos ∧ w.dictwd = v.dictwd ∧ w.nextCode = v.nextCode ∧
      (v.pos = 0 ∨ (2 ≤ v.pos ∧ w.prev = v.prev))
  | _ => True

/-- Two runs of a command that go alike: what they have in common while it runs, and the results it ends with. -/
structure RunsAlike (s t : State) : Prop where
  looks : LooksAlike s t
  work : s.status = .busy → SameWork s.cmd s.work t.work
  results : s.status = .done → ownsResults s.cmd = true → t.res0 = s.res0 ∧ t.res1 = s.res1
  symbol : s.status = .done → s.cmd = 0x03#8 → t.res2 = s.res2

theorem LooksAlike.outLen (h : LooksAlike s t) (ho : ownsOut s.cmd = true) : t.outLen = s.outLen := by
  simpa using congrArg List.length (h.output ho)

variable {op : Byte}

theorem RunningAlike.ownsOut (h : RunningAlike op s t) (ho : ownsOut op = true) : ownsOut s.cmd = true :=
  h.running.2.symm ▸ ho

theorem RunningAlike.setWork (h : RunningAlike op s t) (v w : Work) : RunningAlike op (s.setWork v) (t.setWork w) :=
  ⟨{ h.looks with inputs := { h.looks.inputs with } }, h.running⟩

theorem RunningAlike.setResults (h : RunningAlike op s t) (a b c d : Nat) (x y : BitVec 9) :
    RunningAlike op { s with res0 := a, res1 := b, res2 := x } { t with res0 := c, res1 := d, res2 := y } :=
  ⟨{ h.looks with inputs := { h.looks.inputs with } }, h.running⟩

theorem RunningAlike.appendSeq (h : RunningAlike op s t) (bs : List Byte) :
    RunningAlike op (s.appendSeq bs) (t.appendSeq bs) := by
  have hout : Machine.ownsOut s.cmd = true → (t.appendSeq bs).output = (s.appendSeq bs).output := fun ho => by
    rw [State.output_appendSeq, State.output_appendSeq, h.looks.output ho]
  have hin := h.looks.inputs.of_keepsHostSide (.appendSeq s bs) (.appendSeq t bs)
  rw [State.appendSeq_eq, State.appendSeq_eq] at *
  exact ⟨{ h.looks with inputs := hin, output := hout }, h.running⟩

/-! ### The shared operations in two runs -/

/-- The command goes on. -/
theorem RunsAlike.goesOn (h : RunningAlike op s t) (hw : SameWork op s.work t.work) : RunsAlike s t where
  looks := h.looks
  work _ := h.running.2.symm ▸ hw
  results hd := absurd hd (by simp [h.running.1])
  symbol hd := absurd hd (by simp [h.running.1])

theorem State.output_of_outLen_zero (h : s.outLen = 0) : s.output = [] := by simp [State.output, h]

theorem RunsAlike.raise (h : RunningAlike op s t) (k : ErrKind) : RunsAlike (raise k s) (raise k t) where
  looks := {
    inputs := h.looks.inputs.of_keepsHostSide (raise_keepsHostSide k s) (raise_keepsHostSide k t)
    cmd := by simp [h.looks.cmd]
    status := by simp
    kind := by simp
    output := fun ho => by
      rw [raise_cmd] at ho
      rw [State.output_of_outLen_zero (by rw [raise_outLen, h.looks.cmd, if_pos ho]),
        State.output_of_outLen_zero (by rw [raise_outLen, if_pos ho])] }
  work hb := absurd hb (by simp)
  results hd := absurd hd (by simp)
  symbol hd := absurd hd (by simp)

theorem RunsAlike.finish (h : RunningAlike op s t) (hres : ownsResults op = true → t.res0 = s.res0 ∧ t.res1 = s.res1)
    (hsym : op = 0x03#8 → t.res2 = s.res2) : RunsAlike (finish s) (finish t) where
  looks := { h.looks with inputs := { h.looks.inputs with }, status := rfl }
  work hb := absurd hb (by simp)
  results _ ho := hres (h.running.2 ▸ ho)
  symbol _ hc := hsym (h.running.2.symm.trans hc)

/-- A command that writes `OUT` has no result registers (R287). -/
theorem RunsAlike.finish_of_ownsOut (h : RunningAlike op s t) (ho : ownsOut op = true) :
    RunsAlike (Machine.finish s) (Machine.finish t) := by
  have hres : ownsResults op = false := by
    simp only [Machine.ownsOut, ownsResults, Bool.or_eq_true, Bool.or_eq_false_iff, Bool.and_eq_true,
      decide_eq_true_eq, beq_iff_eq, beq_eq_false_iff_ne] at ho ⊢
    omega
  exact .finish h (fun hr => by simp [hres] at hr) (fun hop => by simp [hop, Machine.ownsOut] at ho)

/-- The same bytes are appended in both runs, or do not fit in both (R65, R66). -/
theorem RunsAlike.orRaise_emitSeq (h : RunningAlike op s t) (ho : ownsOut op = true) (bs : List Byte)
    {go go' : State → State}
    (hgo : RunningAlike op (s.appendSeq bs) (t.appendSeq bs) →
      RunsAlike (go (s.appendSeq bs)) (go' (t.appendSeq bs))) :
    RunsAlike (orRaise s (emitSeq bs s) go) (orRaise t (emitSeq bs t) go') := by
  have hiff : t.overflowsBy bs.length ↔ s.overflowsBy bs.length := by
    rw [State.overflowsBy, State.overflowsBy, h.looks.inputs.par, h.looks.outLen (h.ownsOut ho)]
  rcases emitSeq_spec bs s with ⟨hs, hes⟩ | ⟨hs, hes⟩ <;> rcases emitSeq_spec bs t with ⟨ht, het⟩ | ⟨ht, het⟩
  · rw [hes, het]
    exact .raise h .overflow
  · exact absurd (hiff.mpr hs) ht
  · exact absurd (hiff.mp ht) hs
  · rw [hes, het]
    exact hgo (h.appendSeq bs)

theorem guardLen_alike {iter : State → State} (h : RunningAlike op s t) (hiter : RunsAlike (iter s) (iter t)) :
    RunsAlike (guardLen iter s) (guardLen iter t) := by
  unfold guardLen
  rw [h.looks.inputs.inTooLong]
  split
  · exact .raise h .illegalOperation
  · exact hiter

/-! ### VENC, MATCH and the encoders -/

theorem vencBody_alike (h : RunningAlike 0x01#8 s t) : RunsAlike (vencBody s) (vencBody t) := by
  unfold vencBody
  rw [h.looks.inputs.arg0]
  exact .orRaise_emitSeq h rfl _ fun h' => .finish_of_ownsOut h' rfl

theorem matchBody_alike (h : RunningAlike 0x03#8 s t) : RunsAlike (matchBody s) (matchBody t) := by
  have hin := h.looks.inputs
  have hbest := hin.bestMatch s.arg0
  unfold matchBody
  rw [hin.arg0, hin.inLen]
  split
  · exact .raise h .illegalOperation
  · refine .finish ((h.setWork (runMatcher s.arg0 s).work (runMatcher s.arg0 t).work).setResults _ _ _ _ _ _)
      (fun _ => ⟨congrArg Prod.fst hbest, congrArg Prod.snd hbest⟩) (fun _ => ?_)
    change res2Of (t.symbolAt (s.arg0 + (bestMatch t s.arg0).2)) = res2Of (s.symbolAt (s.arg0 + (bestMatch s s.arg0).2))
    rw [hbest, hin.symbolAt]

theorem emitToken_alike (h : RunningAlike 0x04#8 s t) (hpos : t.work.pos = s.work.pos)
    (hd : t.work.tDist = s.work.tDist) (hl : t.work.tLen = s.work.tLen) (hn : t.work.tNext = s.work.tNext) :
    RunsAlike (emitToken s) (emitToken t) := by
  unfold emitToken
  rw [hd, hl, hn]
  refine .orRaise_emitSeq h rfl _ fun h' => .goesOn (h'.setWork _ _) ?_
  simp [SameWork, tokenSpan, hpos, hl, hn]

theorem lz77cIter_alike (h : RunningAlike 0x04#8 s t) (hw : SameWork 0x04#8 s.work t.work) :
    RunsAlike (lz77cIter s) (lz77cIter t) := by
  have hpos : t.work.pos = s.work.pos := hw
  have hin := h.looks.inputs
  have hbest := hin.bestMatch s.work.pos
  unfold lz77cIter
  rw [hpos, hin.inLen]
  split
  · have hd : (bestMatch t t.work.pos).1 = (bestMatch s s.work.pos).1 := by rw [hpos, hbest]
    have hl : (bestMatch t t.work.pos).2 = (bestMatch s s.work.pos).2 := by rw [hpos, hbest]
    refine emitToken_alike (h.setWork (matchToken s).work (matchToken t).work) hpos hd hl ?_
    change t.symbolAt (t.work.pos + (bestMatch t t.work.pos).2) = s.symbolAt (s.work.pos + (bestMatch s s.work.pos).2)
    rw [hpos, hbest, hin.symbolAt]
  · exact .finish_of_ownsOut h rfl

theorem lz78cByte_alike (b : Byte) (h : RunningAlike 0x06#8 s t) (hw : SameWork 0x06#8 s.work t.work) :
    RunsAlike (lz78cByte b s) (lz78cByte b t) := by
  obtain ⟨hpos, hdict, hcur, hnext⟩ := hw
  unfold lz78cByte emitPair lz78Index
  rw [hdict, hcur]
  split
  · exact .goesOn (h.setWork _ _) ⟨hpos, hdict, rfl, hnext⟩
  · refine .orRaise_emitSeq h rfl _ fun h' => .goesOn (h'.setWork _ _) ?_
    simp [SameWork, insert78e, hpos, hdict, hcur, hnext]

theorem lz78cFlush_alike (h : RunningAlike 0x06#8 s t) (hw : SameWork 0x06#8 s.work t.work) :
    RunsAlike (lz78cFlush s) (lz78cFlush t) := by
  obtain ⟨-, hdict, hcur, -⟩ := hw
  unfold lz78cFlush lz78Index
  rw [hdict, hcur]
  split
  · exact .finish_of_ownsOut h rfl
  · exact .orRaise_emitSeq h rfl _ fun h' => .finish_of_ownsOut h' rfl

theorem lz78cIter_alike (h : RunningAlike 0x06#8 s t) (hw : SameWork 0x06#8 s.work t.work) :
    RunsAlike (lz78cIter s) (lz78cIter t) := by
  obtain ⟨hpos, hrest⟩ := id hw
  have hin := h.looks.inputs
  unfold lz78cIter
  rw [hpos, hin.inLen]
  split
  · rw [hin.inByte _ ‹_›]
    exact lz78cByte_alike _ (h.setWork _ _) ⟨congrArg (· + 1) hpos, hrest⟩
  · exact lz78cFlush_alike h hw

/-! #### LZWC: `CUR` is a key wherever its code is emitted -/

theorem Dict.isSome_get?_insert {κ ν : Type} [DecidableEq κ] {d : List (κ × ν)} {k : κ} (k' : κ) (v : ν)
    (h : (Dict.get? d k).isSome = true) : (Dict.get? (Dict.insert d k' v) k).isSome = true := by
  by_cases hk : k = k'
  · simp [hk]
  · rwa [Dict.get?_insert_ne d v hk]

theorem isSome_get?_seedsEncode (b : Byte) : (Dict.get? seedsEncode [b]).isSome = true := by
  rw [Option.isSome_iff_ne_none]
  intro hnone
  refine (Dict.get?_eq_none_iff _ _).mp hnone ([BitVec.ofNat 8 b.toNat], b.toNat) ?_ (by simp)
  exact List.mem_map.mpr ⟨b.toNat, List.mem_range.mpr b.isLt, rfl⟩

theorem curCode_alike (hdict : t.work.dictwe = s.work.dictwe) (hcur : t.work.cur = s.work.cur)
    (hkey : (Dict.get? s.work.dictwe s.work.cur).isSome = true) : curCode t = curCode s := by
  obtain ⟨v, hv⟩ := Option.isSome_iff_exists.mp hkey
  simp [curCode, hdict, hcur, hv]

theorem insertWe_eq_setWork (p : Phrase) (s : State) : insertWe p s = s.setWork (insertWe p s).work := by
  unfold insertWe
  split <;> rfl

theorem insertWe_sameWork (p : Phrase) (hw : SameWork 0x08#8 s.work t.work) :
    SameWork 0x08#8 (insertWe p s).work (insertWe p t).work := by
  obtain ⟨hpos, hdict, hcur, hnext, hseeds, hkey⟩ := id hw
  unfold insertWe
  rw [hdict, hnext]
  split
  · exact ⟨hpos, rfl, hcur, rfl, fun b => Dict.isSome_get?_insert _ _ (hseeds b),
      hkey.imp_right (Dict.isSome_get?_insert _ _)⟩
  · exact hw

/-- The rest of LZWC's work behind an emitted code (R232). -/
theorem insertWe_setCur_alike (b : Byte) (h : RunningAlike 0x08#8 s t) (hw : SameWork 0x08#8 s.work t.work) :
    RunsAlike ((insertWe (s.work.cur ++ [b]) s).setCur [b]) ((insertWe (t.work.cur ++ [b]) t).setCur [b]) := by
  obtain ⟨-, -, hcur, -⟩ := id hw
  obtain ⟨hpos, hdict, -, hnext, hseeds, -⟩ := insertWe_sameWork (s.work.cur ++ [b]) hw
  rw [hcur, insertWe_eq_setWork, insertWe_eq_setWork _ t]
  exact .goesOn (h.setWork _ _) ⟨hpos, hdict, rfl, hnext, hseeds, .inr (hseeds b)⟩

theorem emitCur_alike (b : Byte) (h : RunningAlike 0x08#8 s t) (hw : SameWork 0x08#8 s.work t.work)
    (hkey : (Dict.get? s.work.dictwe s.work.cur).isSome = true) : RunsAlike (emitCur b s) (emitCur b t) := by
  obtain ⟨-, hdict, hcur, -⟩ := id hw
  unfold emitCur emit16
  rw [curCode_alike hdict hcur hkey]
  exact .orRaise_emitSeq h rfl _ fun h' => insertWe_setCur_alike b h' (by simpa using hw)

theorem lzwcByte_alike (b : Byte) (h : RunningAlike 0x08#8 s t) (hw : SameWork 0x08#8 s.work t.work) :
    RunsAlike (lzwcByte b s) (lzwcByte b t) := by
  obtain ⟨hpos, hdict, hcur, hnext, hseeds, hkey⟩ := id hw
  unfold lzwcByte
  rw [hdict, hcur]
  split
  · exact .goesOn (h.setWork _ _) ⟨hpos, hdict, rfl, hnext, hseeds, .inr ‹_›⟩
  · rename_i hnew
    refine emitCur_alike b h hw (hkey.resolve_left fun hnil => hnew ?_)
    rw [hnil]
    exact hseeds b

theorem lzwcLast_alike (h : RunningAlike 0x08#8 s t) (hw : SameWork 0x08#8 s.work t.work) :
    RunsAlike (lzwcLast s) (lzwcLast t) := by
  obtain ⟨-, hdict, hcur, -, -, hkey⟩ := hw
  unfold lzwcLast emit16
  rw [hcur]
  split
  · exact .finish_of_ownsOut h rfl
  · rw [curCode_alike hdict hcur (hkey.resolve_left ‹_›)]
    exact .orRaise_emitSeq h rfl _ fun h' => .finish_of_ownsOut h' rfl

theorem lzwcIter_alike (h : RunningAlike 0x08#8 s t) (hw : SameWork 0x08#8 s.work t.work) :
    RunsAlike (lzwcIter s) (lzwcIter t) := by
  obtain ⟨hpos, hrest⟩ := id hw
  have hin := h.looks.inputs
  unfold lzwcIter
  rw [hpos, hin.inLen]
  split
  · rw [hin.inByte _ ‹_›]
    exact lzwcByte_alike _ (h.setWork _ _) ⟨congrArg (· + 1) hpos, hrest⟩
  · exact lzwcLast_alike h hw

/-! ### The decoders -/

/-- The decoder's loop: the runs read the same unit, and go alike if it has alike effects. -/
theorem decoderIter_alike (f : Format) (h : RunningAlike op s t) (ho : ownsOut op = true)
    (hpos : t.work.pos = s.work.pos)
    (hunit : ∀ i n, decode f (s.inFrom s.work.pos) = .ok i n → RunningAlike op (s.advance n) (t.advance n) →
      RunsAlike (unitEffect i (s.advance n)) (unitEffect i (t.advance n))) :
    RunsAlike (decoderIter f s) (decoderIter f t) := by
  unfold decoderIter
  rw [hpos, h.looks.inputs.inLen, h.looks.inputs.unitAt]
  split
  · split
    · exact .raise h _
    · exact hunit _ _ ‹_› (h.setWork _ _)
  · exact .finish_of_ownsOut h ho

theorem vdecEnd_alike (h : RunningAlike 0x02#8 s t) (hv : t.work.vValue = s.work.vValue)
    (ho : t.work.vOff = s.work.vOff) : RunsAlike (vdecEnd s) (vdecEnd t) := by
  have hfits : t.par.trunc s.work.vValue = s.par.trunc s.work.vValue := by rw [h.looks.inputs.par]
  unfold vdecEnd
  rw [hv, ho, hfits]
  split
  · exact .finish (op := 0x02#8) (h.setResults _ _ _ _ _ _) (fun _ => ⟨rfl, rfl⟩) (fun hop => absurd hop (by decide))
  · exact .raise h .overflow

theorem vdecIter_alike (h : RunningAlike 0x02#8 s t) (hw : SameWork 0x02#8 s.work t.work) :
    RunsAlike (vdecIter s) (vdecIter t) := by
  obtain ⟨hv, hc, ho⟩ := hw
  unfold vdecIter
  rw [ho, h.looks.inputs.unitAt]
  split
  · exact .raise h _
  · rename_i i n hu
    obtain ⟨-, -, rfl⟩ := State.unitAt_varint hu
    have hgroup (g : Group) : RunningAlike 0x02#8 (addGroup g (s.advanceVarint n)) (addGroup g (t.advanceVarint n)) :=
      h.setWork _ _
    have hoff : t.work.vOff + n = s.work.vOff + n := congrArg (· + n) ho
    unfold decodeVarintByte
    split
    · exact .goesOn (hgroup _) (by simp [SameWork, unitEffect, contEffect, addGroup, hv, hc, hoff])
    · have hs : (s.advanceVarint n).cmd = 0x02#8 := h.running.2
      have ht : (t.advanceVarint n).cmd = 0x02#8 := h.looks.cmd.trans h.running.2
      simp only [unitEffect, lastEffect, hs, ht, if_true]
      exact vdecEnd_alike (hgroup _) (by simp [addGroup, hv, hc]) hoff

/-- LZ77D's copy reads the output only, as it is and as it grows (R73, R184). -/
theorem copiedBytes_congr {count src : Nat} (h : t.output = s.output) (hsrc : count = 0 ∨ src < s.outLen) :
    copiedBytes count src t = copiedBytes count src s := by
  induction count generalizing src s t with
  | zero => rfl
  | succ n ih =>
    have hlt : src < s.outLen := hsrc.resolve_left (Nat.succ_ne_zero n)
    have hlen : t.outLen = s.outLen := by simpa using congrArg List.length h
    have hbyte : t.outByte src = s.outByte src := by
      simpa [State.output, hlen, hlt] using congrArg (·[src]?) h
    have hout : (t.append (s.outByte src)).output = (s.append (s.outByte src)).output := by
      rw [State.output_append, State.output_append, h]
    rw [copiedBytes, copiedBytes, hbyte, ih hout (.inr (by simpa using hlt))]

theorem applyToken_alike (h : RunningAlike 0x05#8 s t) (hpos : t.work.pos = s.work.pos)
    (hd : t.work.tDist = s.work.tDist) (hl : t.work.tLen = s.work.tLen) (hn : t.work.tNext = s.work.tNext) :
    RunsAlike (applyToken s) (applyToken t) := by
  have hout := h.looks.output (h.ownsOut rfl)
  unfold applyToken
  rw [hd, hl, h.looks.outLen (h.ownsOut rfl)]
  split
  · exact .raise h .corruptStream
  · rename_i hshape
    split
    · exact .raise h .corruptStream
    · have hsrc : s.work.tLen = 0 ∨ s.outLen - s.work.tDist < s.outLen := by
        simp only [bne_iff_ne, ne_eq, decide_eq_decide, not_not] at hshape
        omega
      rw [copyOut_eq_emitSeq, copyOut_eq_emitSeq, copiedBytes_congr hout hsrc]
      refine .orRaise_emitSeq h rfl _ fun h' => ?_
      rw [emitNext_eq_emitSeq, emitNext_eq_emitSeq, State.appendSeq_work, State.appendSeq_work, hn]
      exact .orRaise_emitSeq h' rfl _ fun h'' => .goesOn h'' (by simpa [SameWork] using hpos)

theorem lz77dIter_alike (h : RunningAlike 0x05#8 s t) (hw : SameWork 0x05#8 s.work t.work) :
    RunsAlike (lz77dIter s) (lz77dIter t) := by
  have hpos : t.work.pos = s.work.pos := hw
  refine decoderIter_alike .lz77tok h rfl hpos fun i n hu h' => ?_
  have hpos' : t.work.pos + n = s.work.pos + n := congrArg (· + n) hpos
  have hformat := (decodeToken_ok hu).1
  cases i with
  | lz77tokNolit d l => exact applyToken_alike (h'.setWork _ _) hpos' rfl rfl rfl
  | lz77tokLit d l c => exact applyToken_alike (h'.setWork _ _) hpos' rfl rfl rfl
  | lz77tokReserved d l m => exact .raise h' .corruptStream
  | _ => cases hformat

theorem pairEffect_alike (index : Nat) (c : Byte) (h : RunningAlike 0x07#8 s t)
    (hw : SameWork 0x07#8 s.work t.work) : RunsAlike (pairEffect index c s) (pairEffect index c t) := by
  obtain ⟨hpos, hdict, hnext⟩ := hw
  unfold pairEffect
  rw [hdict]
  split
  · exact .raise h .corruptStream
  · refine .orRaise_emitSeq h rfl _ fun h' => .goesOn (h'.setWork _ _) ?_
    simp [SameWork, insert78d, hpos, hdict, hnext]

theorem lz78dIter_alike (h : RunningAlike 0x07#8 s t) (hw : SameWork 0x07#8 s.work t.work) :
    RunsAlike (lz78dIter s) (lz78dIter t) := by
  obtain ⟨hpos, hrest⟩ := hw
  refine decoderIter_alike .lz78pair h rfl hpos fun i n hu h' => ?_
  have hformat := (decodePair_ok hu).1
  cases i with
  | lz78pair index c => exact pairEffect_alike index c h' ⟨congrArg (· + n) hpos, hrest⟩
  | _ => cases hformat

theorem insertWd_eq_setWork (p : Phrase) (s : State) : insertWd p s = s.setWork (insertWd p s).work := by
  unfold insertWd
  split <;> rfl

theorem insertWd_alike (p : Phrase) (hdict : t.work.dictwd = s.work.dictwd)
    (hnext : t.work.nextCode = s.work.nextCode) :
    (insertWd p t).work.dictwd = (insertWd p s).work.dictwd ∧
      (insertWd p t).work.nextCode = (insertWd p s).work.nextCode := by
  unfold insertWd
  rw [hdict, hnext]
  split
  · exact ⟨rfl, rfl⟩
  · exact ⟨hdict, hnext⟩

@[simp] theorem insertWd_pos (p : Phrase) (s : State) : (insertWd p s).work.pos = s.work.pos := by
  unfold insertWd
  split <;> rfl

theorem firstCode_alike (k : Nat) (h : RunningAlike 0x09#8 s t) (hpos : t.work.pos = s.work.pos)
    (hdict : t.work.dictwd = s.work.dictwd) (hnext : t.work.nextCode = s.work.nextCode) (h2 : 2 ≤ s.work.pos) :
    RunsAlike (firstCode k s) (firstCode k t) := by
  unfold firstCode
  rw [hdict]
  split
  · exact .raise h .corruptStream
  · refine .orRaise_emitSeq h rfl _ fun h' => .goesOn (h'.setWork _ _) ?_
    simp [SameWork, hpos, hdict, hnext, h2]

/-- The rest of LZWD's work behind an appended entry (R240). -/
theorem insertWd_setPrev_alike (e : Phrase) (h : RunningAlike 0x09#8 s t) (hpos : t.work.pos = s.work.pos)
    (hdict : t.work.dictwd = s.work.dictwd) (hnext : t.work.nextCode = s.work.nextCode) (h2 : 2 ≤ s.work.pos)
    (hprev : t.work.prev = s.work.prev) :
    RunsAlike ((insertWd (s.work.prev ++ e.take 1) s).setPrev e)
      ((insertWd (t.work.prev ++ e.take 1) t).setPrev e) := by
  obtain ⟨hdict', hnext'⟩ := insertWd_alike (s.work.prev ++ e.take 1) hdict hnext
  rw [hprev, insertWd_eq_setWork, insertWd_eq_setWork _ t]
  refine .goesOn (h.setWork _ _) ⟨?_, hdict', hnext', .inr ⟨?_, rfl⟩⟩
  · simpa using hpos
  · simpa using h2

theorem laterCode_alike (k : Nat) (h : RunningAlike 0x09#8 s t) (hpos : t.work.pos = s.work.pos)
    (hdict : t.work.dictwd = s.work.dictwd) (hnext : t.work.nextCode = s.work.nextCode) (h2 : 2 ≤ s.work.pos)
    (hprev : t.work.prev = s.work.prev) : RunsAlike (laterCode k s) (laterCode k t) := by
  have hentry : codeEntry k t = codeEntry k s := by rw [codeEntry, codeEntry, hdict, hnext, hprev]
  unfold laterCode
  rw [hentry]
  split
  · exact .raise h .corruptStream
  · refine .orRaise_emitSeq h rfl _ fun h' => insertWd_setPrev_alike _ h' ?_ ?_ ?_ ?_ ?_ <;>
      simpa only [State.appendSeq_work]

/-- A code word behind the first one reads `PREV`, which the word before it has set; the first one does not
(R36, R240). -/
theorem codeEffect_alike (k : CodeWord) (h : RunningAlike 0x09#8 s t) (hpos : t.work.pos = s.work.pos)
    (hdict : t.work.dictwd = s.work.dictwd) (hnext : t.work.nextCode = s.work.nextCode) (h2 : 2 ≤ s.work.pos)
    (hprev : s.work.pos ≠ 2 → t.work.prev = s.work.prev) : RunsAlike (codeEffect k s) (codeEffect k t) := by
  unfold codeEffect
  rw [hpos]
  split
  · exact firstCode_alike _ h hpos hdict hnext h2
  · exact laterCode_alike _ h hpos hdict hnext h2 (hprev ‹_›)

theorem codeLoop_alike (h : RunningAlike 0x09#8 s t) (hw : SameWork 0x09#8 s.work t.work) :
    RunsAlike (decoderIter .lzwcode s) (decoderIter .lzwcode t) := by
  obtain ⟨hpos, hdict, hnext, hprev⟩ := hw
  refine decoderIter_alike .lzwcode h rfl hpos fun i n hu h' => ?_
  obtain ⟨⟨k, rfl⟩, rfl, -⟩ := decodeCode_ok hu
  refine codeEffect_alike k h' (congrArg (· + 2) hpos) hdict hnext (Nat.le_add_left 2 _) fun hlater => ?_
  exact (hprev.resolve_left fun h0 => hlater (congrArg (· + 2) h0)).2

theorem lzwdIter_alike (h : RunningAlike 0x09#8 s t) (hw : SameWork 0x09#8 s.work t.work) :
    RunsAlike (lzwdIter s) (lzwdIter t) := by
  have hcode := codeLoop_alike h hw
  unfold lzwdIter
  rw [hw.1, h.looks.inputs.inLen]
  split
  · split
    · exact .raise h .malformedInput
    · split
      · exact .raise h .emptyStream
      · exact hcode
  · exact hcode

/-! ### The engine, and a command from its start to its end -/

theorem clear_alike (h : RunningAlike 0x0F#8 s t) : RunsAlike (clear s) (clear t) where
  looks := { h.looks with
    inputs := { h.looks.inputs with }
    status := rfl
    kind := rfl
    output := fun _ => rfl }
  work hb := nomatch hb
  results hd := nomatch hd
  symbol hd := nomatch hd

/-- One iteration of the engine in two runs that go alike. -/
theorem engineIter_alike (h : RunsAlike s t) (hb : s.status = .busy) : RunsAlike (engineIter s) (engineIter t) := by
  have hcmd {n : Nat} (hn : s.cmd.toNat = n) : s.cmd = BitVec.ofNat 8 n := by rw [← hn]; simp
  have hguard {n : Nat} {iter : State → State} (hn : s.cmd.toNat = n)
      (hiter : RunningAlike (BitVec.ofNat 8 n) s t → SameWork (BitVec.ofNat 8 n) s.work t.work →
        RunsAlike (iter s) (iter t)) : RunsAlike (guardLen iter s) (guardLen iter t) :=
    have hr : RunningAlike (BitVec.ofNat 8 n) s t := ⟨h.looks, hb, hcmd hn⟩
    guardLen_alike hr (hiter hr (hcmd hn ▸ h.work hb))
  unfold engineIter
  rw [h.looks.cmd]
  split
  · exact vencBody_alike ⟨h.looks, hb, hcmd ‹_›⟩
  · exact hguard ‹_› vdecIter_alike
  · exact hguard ‹_› fun hr _ => matchBody_alike hr
  · exact hguard ‹_› lz77cIter_alike
  · exact hguard ‹_› lz77dIter_alike
  · exact hguard ‹_› lz78cIter_alike
  · exact hguard ‹_› lz78dIter_alike
  · exact hguard ‹_› lzwcIter_alike
  · exact hguard ‹_› lzwdIter_alike
  · exact clear_alike ⟨h.looks, hb, hcmd ‹_›⟩
  · exact .raise ⟨h.looks, hb, rfl⟩ .illegalOperation

theorem runLoop_alike (n : Nat) (h : RunsAlike s t) :
    RunsAlike (runLoop engineIter n s) (runLoop engineIter n t) := by
  induction n generalizing s t with
  | zero => exact h
  | succ n ih =>
    unfold runLoop
    rw [h.looks.status]
    split
    · exact ih (engineIter_alike h ‹_›)
    · exact h

theorem runLoop_cmd (n : Nat) (s : State) : (runLoop engineIter n s).cmd = s.cmd :=
  runLoop_keeps (·.cmd = s.cmd) engineIter (fun u hu _ => (engineIter_cmd u).trans hu) n rfl

/-- A command's start sets every register that its run reads before it writes it (R40, R52). -/
theorem startWork_sameWork (op : Byte) (a : Nat) (v w : Work) :
    SameWork op (startWork op a v) (startWork op a w) := by
  unfold SameWork startWork
  split <;> simp [CurKnown, isSome_get?_seedsEncode, *]

theorem start_alike (op : Byte) (h : SameInputs s t) : RunsAlike (start op s) (start op t) where
  looks := {
    inputs := h.of_keepsHostSide (start_keepsHostSide op s) (start_keepsHostSide op t)
    cmd := by simp
    status := by simp
    kind := by simp
    output := fun ho => by
      rw [start_cmd] at ho
      rw [State.output_of_outLen_zero (by rw [start_outLen, if_pos ho]),
        State.output_of_outLen_zero (by rw [start_outLen, if_pos ho])] }
  work _ := by
    rw [start_cmd, start_work, start_work, h.arg0]
    exact startWork_sameWork op _ _ _
  results hd := absurd hd (by simp)
  symbol hd := absurd hd (by simp)

end

theorem ownsOut_of_mem_outCommands : ∀ i ∈ outCommands, ownsOut (opcode i) = true := by decide

/-- Settles O59: two runs that start with the same inputs go alike until they end. -/
theorem resultDependsOnInputsAlone : Obligations.ResultDependsOnInputsAlone := by
  intro i s s' hi hb hb' hin
  have halike := runLoop_alike (iterations i s.inLen) (start_alike (opcode i) hin)
  have hcmd := (runLoop_cmd (iterations i s.inLen) (start (opcode i) s)).trans (start_cmd _ s)
  refine ⟨_, _, exec_eq_runLoop hi hb, exec_eq_runLoop hi hb', ?_⟩
  rw [hin.inLen]
  generalize runLoop engineIter (iterations i s.inLen) (start (opcode i) s) = t at halike hcmd
  generalize runLoop engineIter (iterations i s.inLen) (start (opcode i) s') = t' at halike
  refine ⟨halike.looks.status.symm, halike.looks.kind.symm, fun ho => ?_, fun hd hres => ?_, fun hd hm => ?_⟩
  · exact (halike.looks.output (hcmd ▸ ownsOut_of_mem_outCommands i ho)).symm
  · have hown : ownsResults t.cmd = true := by
      rw [hcmd]
      rcases hres with rfl | rfl <;> rfl
    obtain ⟨h0, h1⟩ := halike.results hd hown
    exact ⟨h0.symm, h1.symm⟩
  · exact (halike.symbol hd (by rw [hcmd, hm]; rfl)).symm

end Sys2Proof.Machine
end

section
/-! SUPPORT. Proofs: what an iteration of a command that writes `OUT` does to the output and to the working state. -/

namespace Sys2Proof.Machine

/-! ### A state with a longer output and another working state -/

/-- `s` with `bs` appended to `OUT` and the working state `w`. -/
def State.grown (s : State) (bs : List Byte) (w : Work) : State := (s.appendSeq bs).setWork w

section
variable (s : State) (bs : List Byte) (w : Work)

@[simp] theorem State.grown_work : (s.grown bs w).work = w := rfl
@[simp] theorem State.grown_cmd : (s.grown bs w).cmd = s.cmd := by simp [State.grown, State.appendSeq_eq]
@[simp] theorem State.grown_status : (s.grown bs w).status = s.status := by simp [State.grown, State.appendSeq_eq]
@[simp] theorem State.grown_kind : (s.grown bs w).kind = s.kind := by simp [State.grown, State.appendSeq_eq]
@[simp] theorem State.grown_outLen : (s.grown bs w).outLen = s.outLen + bs.length := by
  simp [State.grown, State.appendSeq_eq]

theorem State.grown_grown (cs : List Byte) (v : Work) : (s.grown bs v).grown cs w = s.grown (bs ++ cs) w := by
  rw [State.grown, State.grown, State.grown, State.appendSeq_append]
  simp only [State.appendSeq_eq]
  rfl

theorem State.appendSeq_eq_grown : s.appendSeq bs = s.grown bs s.work := by
  rw [State.grown, State.appendSeq_eq]
  rfl

theorem KeepsHostSide.grown : KeepsHostSide s (s.grown bs w) := by
  rw [State.grown, State.appendSeq_eq]
  exact .of_fields rfl rfl rfl rfl rfl rfl rfl rfl rfl

theorem KeepsResults.grown : KeepsResults s (s.grown bs w) := by
  rw [State.grown, State.appendSeq_eq]
  exact ⟨rfl, rfl, rfl⟩

/-- Only the bytes from the old `OUT_LEN` up to the new one change (R63, R65). -/
theorem State.outByte_grown {a : Nat} (h : a < s.outLen ∨ s.outLen + bs.length ≤ a) :
    (s.grown bs w).outByte a = s.outByte a := by
  have hout : ¬ (s.outLen ≤ a ∧ a < s.outLen + bs.length) := by omega
  simp only [State.grown, State.appendSeq_eq, State.setWork, State.outByte, Mem.get?_setSeq, if_neg hout]

end

/-! ### The iterations of the commands that write `OUT` -/

/-- All that one iteration of a command that writes `OUT` can do, `P` the working states it goes on with: the command
goes on, fails or ends, with bytes appended and nothing else written. -/
inductive OutIteration (P : Work → Prop) (s : State) : State → Prop where
  | goesOn (bs : List Byte) {w : Work} (h : P w) : OutIteration P s (s.grown bs w)
  | raises (bs : List Byte) (w : Work) (k : ErrKind) : OutIteration P s (raise k (s.grown bs w))
  | finishes (bs : List Byte) (w : Work) : OutIteration P s (finish (s.grown bs w))

/-- Where the command still runs, its working state is one it goes on with. -/
theorem OutIteration.work_of_busy {P : Work → Prop} {s t : State} (h : OutIteration P s t) (hb : t.status = .busy) :
    P t.work := by
  cases h with
  | goesOn bs h => exact h
  | raises bs w k => simp at hb
  | finishes bs w => simp at hb

section
variable {P : Work → Prop}

/-- Bytes appended and a working state set before the rest of an iteration. -/
theorem OutIteration.of_grown {s t : State} (bs : List Byte) (v : Work) (h : OutIteration P (s.grown bs v) t) :
    OutIteration P s t := by
  cases h with
  | goesOn cs h => rw [State.grown_grown]; exact .goesOn _ h
  | raises cs w k => rw [State.grown_grown]; exact .raises _ w k
  | finishes cs w => rw [State.grown_grown]; exact .finishes _ w

theorem OutIteration.of_setWork {s t : State} (v : Work) (h : OutIteration P (s.setWork v) t) : OutIteration P s t :=
  .of_grown [] v h

theorem OutIteration.setWork (s : State) {w : Work} (h : P w) : OutIteration P s (s.setWork w) := .goesOn [] h

theorem OutIteration.refl {s : State} (h : P s.work) : OutIteration P s s := .setWork s h

theorem OutIteration.raise (k : ErrKind) (s : State) : OutIteration P s (raise k s) := .raises [] s.work k

theorem OutIteration.finish (s : State) : OutIteration P s (finish s) := .finishes [] s.work

/-- Bytes are appended, or `Overflow` is raised; then the iteration goes on. -/
theorem OutIteration.orRaise_emitSeq (s : State) (bs : List Byte) (go : State → State)
    (hgo : OutIteration P (s.appendSeq bs) (go (s.appendSeq bs))) :
    OutIteration P s (orRaise s (emitSeq bs s) go) := by
  rcases emitSeq_spec bs s with ⟨-, h⟩ | ⟨-, h⟩ <;> rw [h]
  · exact .raise .overflow s
  · rw [State.appendSeq_eq_grown] at hgo
    rw [orRaise, State.appendSeq_eq_grown]
    exact .of_grown _ _ hgo

theorem guardLen_outIteration {iter : State → State} {s : State} (h : OutIteration P s (iter s)) :
    OutIteration P s (guardLen iter s) := by
  unfold guardLen
  split
  · exact .raise .illegalOperation s
  · exact h

/-! #### VENC and the encoders -/

theorem vencBody_outIteration (s : State) : OutIteration P s (vencBody s) := .orRaise_emitSeq s _ _ (.finish _)

theorem lz77cIter_outIteration (s : State) : OutIteration (fun _ => True) s (lz77cIter s) := by
  unfold lz77cIter
  split
  · exact .of_setWork (matchToken s).work (.orRaise_emitSeq _ _ _ (.setWork _ trivial))
  · exact .finish s

/-- LZ78C goes on with a longer `CUR` that is a key, or with a new entry and `CUR` empty (R202). -/
theorem lz78cByte_outIteration {b : Byte} {s : State}
    (hkey : (Dict.get? s.work.dict78e (s.work.cur ++ [b])).isSome = true → P { s.work with cur := s.work.cur ++ [b] })
    (hnew : Dict.get? s.work.dict78e (s.work.cur ++ [b]) = none →
      P { s.work with
        dict78e := Dict.insert s.work.dict78e (s.work.cur ++ [b]) s.work.nextCode
        nextCode := s.work.nextCode + 1
        cur := [] }) :
    OutIteration P s (lz78cByte b s) := by
  unfold lz78cByte
  split
  · exact .setWork s (hkey ‹_›)
  · have hnone := hnew (Option.not_isSome_iff_eq_none.mp ‹_›)
    refine .orRaise_emitSeq s _ _ (.setWork _ ?_)
    simpa only [insert78e, State.appendSeq_work] using hnone

theorem lz78cFlush_outIteration (s : State) : OutIteration P s (lz78cFlush s) := by
  unfold lz78cFlush
  split
  · exact .finish s
  · exact .orRaise_emitSeq s _ _ (.finish _)

theorem lz78cIter_outIteration {s : State}
    (h : OutIteration P (s.advance 1) (lz78cByte (s.inByte s.work.pos) (s.advance 1))) :
    OutIteration P s (lz78cIter s) := by
  unfold lz78cIter
  split
  · exact .of_setWork _ h
  · exact lz78cFlush_outIteration s

/-- `insertWe` on the working state: the phrase is stored under `NEXT_CODE` unless the table is full (R232, R234). -/
def Work.storeWe (p : Phrase) (w : Work) : Work :=
  if w.dictwe.length < Config.maxTable then
    { w with dictwe := Dict.insert w.dictwe p w.nextCode, nextCode := w.nextCode + 1 }
  else w

theorem insertWe_eq_storeWe (p : Phrase) (s : State) : insertWe p s = s.setWork (s.work.storeWe p) := by
  unfold insertWe Work.storeWe
  split <;> rfl

/-- LZWC goes on with a longer `CUR` that is a key, or with the phrase stored and `CUR` the byte (R232). -/
theorem lzwcByte_outIteration {b : Byte} {s : State}
    (hkey : (Dict.get? s.work.dictwe (s.work.cur ++ [b])).isSome = true → P { s.work with cur := s.work.cur ++ [b] })
    (hnew : Dict.get? s.work.dictwe (s.work.cur ++ [b]) = none →
      P { s.work.storeWe (s.work.cur ++ [b]) with cur := [b] }) :
    OutIteration P s (lzwcByte b s) := by
  unfold lzwcByte
  split
  · exact .setWork s (hkey ‹_›)
  · have hnone := hnew (Option.not_isSome_iff_eq_none.mp ‹_›)
    refine .orRaise_emitSeq s _ _ ?_
    rw [insertWe_eq_storeWe, State.appendSeq_work]
    exact .of_setWork _ (.setWork _ hnone)

theorem lzwcLast_outIteration (s : State) : OutIteration P s (lzwcLast s) := by
  unfold lzwcLast
  split
  · exact .finish s
  · exact .orRaise_emitSeq s _ _ (.finish _)

theorem lzwcIter_outIteration {s : State}
    (h : OutIteration P (s.advance 1) (lzwcByte (s.inByte s.work.pos) (s.advance 1))) :
    OutIteration P s (lzwcIter s) := by
  unfold lzwcIter
  split
  · exact .of_setWork _ h
  · exact lzwcLast_outIteration s

/-! #### The units of the decoders -/

/-- A token changes no working register once it is in `T_DIST`, `T_LEN` and `T_NEXT` (R180). -/
theorem applyToken_outIteration {s : State} (h : P s.work) : OutIteration P s (applyToken s) := by
  unfold applyToken
  split
  · exact .raise .corruptStream s
  · split
    · exact .raise .corruptStream s
    · rw [copyOut_eq_emitSeq]
      refine .orRaise_emitSeq s _ _ ?_
      rw [emitNext_eq_emitSeq]
      exact .orRaise_emitSeq _ _ _ (.refl (by simpa using h))

/-- A known pair stores its phrase under `NEXT_CODE` (R210). -/
theorem pairEffect_outIteration {index : Nat} {c : Byte} {s : State}
    (h : ∀ p, P { s.work with
      dict78d := Dict.insert s.work.dict78d s.work.nextCode (p ++ [c])
      nextCode := s.work.nextCode + 1 }) :
    OutIteration P s (pairEffect index c s) := by
  unfold pairEffect
  split
  · exact .raise .corruptStream s
  · rename_i p _
    refine .orRaise_emitSeq s _ _ (.setWork _ ?_)
    simpa only [State.appendSeq_work] using h p

/-- `insertWd` on the working state: the phrase is stored under `NEXT_CODE` unless the table is full (R240, R243). -/
def Work.storeWd (p : Phrase) (w : Work) : Work :=
  if w.dictwd.length < Config.maxTable then
    { w with dictwd := Dict.insert w.dictwd w.nextCode p, nextCode := w.nextCode + 1 }
  else w

theorem insertWd_eq_storeWd (p : Phrase) (s : State) : insertWd p s = s.setWork (s.work.storeWd p) := by
  unfold insertWd Work.storeWd
  split <;> rfl

/-- A first code word sets `PREV`, a later one stores a phrase and sets `PREV` (R240). -/
theorem codeEffect_outIteration {k : CodeWord} {s : State} (hfirst : ∀ p, P { s.work with prev := p })
    (hlater : ∀ p e, P { s.work.storeWd p with prev := e }) : OutIteration P s (codeEffect k s) := by
  unfold codeEffect
  split
  · unfold firstCode
    split
    · exact .raise .corruptStream s
    · refine .orRaise_emitSeq s _ _ (.setWork _ ?_)
      simpa only [State.appendSeq_work] using hfirst _
  · unfold laterCode
    split
    · exact .raise .corruptStream s
    · refine .orRaise_emitSeq s _ _ ?_
      rw [insertWd_eq_storeWd]
      refine .of_setWork _ (.setWork _ ?_)
      simpa only [State.setWork_work, State.appendSeq_work] using hlater _ _

/-- The effect of a decoder's unit, for each unit that its stream can hold (R106). -/
theorem decoderIter_outIteration {f : Format} {s : State}
    (h : ∀ i n, decode f (s.inFrom s.work.pos) = .ok i n → OutIteration P (s.advance n) (unitEffect i (s.advance n))) :
    OutIteration P s (decoderIter f s) := by
  unfold decoderIter
  split
  · split
    · exact .raise _ s
    · exact .of_setWork _ (h _ _ ‹_›)
  · exact .finish s

theorem lz78dIter_outIteration {s : State}
    (h : ∀ index c n, OutIteration P (s.advance n) (pairEffect index c (s.advance n))) :
    OutIteration P s (lz78dIter s) := by
  refine decoderIter_outIteration fun i n hu => ?_
  have hformat := (decodePair_ok hu).1
  cases i with
  | lz78pair index c => exact h index c n
  | _ => cases hformat

theorem lzwdIter_outIteration {s : State}
    (h : ∀ k n, OutIteration P (s.advance n) (codeEffect k (s.advance n))) : OutIteration P s (lzwdIter s) := by
  have hcode : OutIteration P s (decoderIter .lzwcode s) := decoderIter_outIteration fun i n hu => by
    obtain ⟨⟨k, rfl⟩, -⟩ := decodeCode_ok hu
    exact h k n
  unfold lzwdIter
  split
  · split
    · exact .raise .malformedInput s
    · split
      · exact .raise .emptyStream s
      · exact hcode
  · exact hcode

theorem lz77dIter_outIteration (s : State) : OutIteration (fun _ => True) s (lz77dIter s) := by
  refine decoderIter_outIteration fun i n hu => ?_
  have hformat := (decodeToken_ok hu).1
  cases i with
  | lz77tokNolit d l | lz77tokLit d l c => exact .of_setWork _ (applyToken_outIteration trivial)
  | lz77tokReserved d l m => exact .raise .corruptStream _
  | _ => cases hformat

end

end Sys2Proof.Machine
end

section
/-! SUPPORT. Proofs: the dictionary invariant is set up by every start and kept by every step (O58). -/

namespace Sys2Proof.Machine

/-! ### Lookups by key -/

theorem Dict.isSome_get?_iff {κ ν : Type} [DecidableEq κ] (d : List (κ × ν)) (k : κ) :
    (Dict.get? d k).isSome = true ↔ k ∈ d.map (·.1) := by
  rw [← not_iff_not, Option.not_isSome_iff_eq_none, Dict.get?_eq_none_iff]
  simp only [List.mem_map, not_exists, not_and, ne_eq]

/-- Where no key stands twice, every entry is the one its key finds. -/
theorem Dict.get?_of_mem {κ ν : Type} [DecidableEq κ] {d : List (κ × ν)} {k : κ} {v : ν}
    (hd : (d.map (·.1)).Nodup) (h : (k, v) ∈ d) : Dict.get? d k = some v := by
  obtain ⟨w, hw⟩ := Option.isSome_iff_exists.mp ((Dict.isSome_get?_iff d k).mpr (List.mem_map.mpr ⟨_, h, rfl⟩))
  cases List.inj_on_of_nodup_map hd (Dict.mem_of_get? hw) h rfl
  exact hw

theorem Dict.length_insert {κ ν : Type} [DecidableEq κ] {d : List (κ × ν)} {k : κ} (v : ν)
    (h : Dict.get? d k = none) : (Dict.insert d k v).length = d.length + 1 := by
  rw [Dict.insert_of_get?_none v h, List.length_cons]

/-- The known codes of a decoder are the numbers below its next one, and stay so when that is given to a phrase. -/
theorem Dict.isSome_get?_insert_next {d : List (Nat × Phrase)} {n : Nat} (p : Phrase)
    (h : ∀ k, (Dict.get? d k).isSome = true ↔ k < n) (k : Nat) :
    (Dict.get? (Dict.insert d n p) k).isSome = true ↔ k < n + 1 := by
  by_cases hk : k = n
  · simp [hk]
  · rw [Dict.get?_insert_ne d p hk, h k]
    omega

theorem Dict.get?_next_eq_none {d : List (Nat × Phrase)} {n : Nat}
    (h : ∀ k, (Dict.get? d k).isSome = true ↔ k < n) : Dict.get? d n = none :=
  Option.not_isSome_iff_eq_none.mp fun hs => Nat.lt_irrefl n ((h n).mp hs)

/-! ### The seeds (R43) -/

theorem oneEntryEach_seedsEncode : OneEntryEach seedsEncode := by
  have hfst : seedsEncode.map (·.1) = (List.range 256).map fun c => [BitVec.ofNat 8 c] := by
    rw [seedsEncode, List.map_map]
    rfl
  have hsnd : seedsEncode.map (·.2) = List.range 256 := by
    rw [seedsEncode, List.map_map]
    exact List.map_id _
  rw [OneEntryEach, hfst, hsnd]
  refine ⟨List.Nodup.map_on (fun x hx y hy hxy => ?_) List.nodup_range, List.nodup_range⟩
  have hx := List.mem_range.mp hx
  have hy := List.mem_range.mp hy
  have := congrArg BitVec.toNat (List.singleton_inj.mp hxy)
  simp only [BitVec.toNat_ofNat] at this
  omega

theorem mem_seedsEncode {e : Phrase × Nat} (h : e ∈ seedsEncode) : e.1 ≠ [] ∧ e.2 < 256 := by
  obtain ⟨c, hc, rfl⟩ := List.mem_map.mp h
  exact ⟨List.cons_ne_nil _ _, List.mem_range.mp hc⟩

theorem get?_seedsEncode (b : Byte) : Dict.get? seedsEncode [b] = some b.toNat :=
  Dict.get?_of_mem oneEntryEach_seedsEncode.1
    (List.mem_map.mpr ⟨b.toNat, List.mem_range.mpr b.isLt, by rw [BitVec.ofNat_toNat, BitVec.setWidth_eq]⟩)

/-! ### The invariant of each command, on its working state alone -/

/-- `DictInv`'s clause for LZ78C (R35, R37, R41). -/
def Lz78cOk (w : Work) : Prop :=
  w.dict78e.length + 1 = w.nextCode ∧ OneEntryEach w.dict78e ∧
  (∀ e ∈ w.dict78e, e.1 ≠ [] ∧ 1 ≤ e.2 ∧ e.2 < w.nextCode) ∧
  (w.cur = [] ∨ (Dict.get? w.dict78e w.cur).isSome = true)

/-- `DictInv`'s clause for LZ78D (R37, R42). -/
def Lz78dOk (w : Work) : Prop :=
  w.dict78d.length = w.nextCode ∧ 1 ≤ w.nextCode ∧ Dict.get? w.dict78d 0 = some [] ∧
  (∀ k, (Dict.get? w.dict78d k).isSome = true ↔ k < w.nextCode)

/-- `DictInv`'s clause for LZWC (R35, R37, R43, R246). -/
def LzwcOk (w : Work) : Prop :=
  w.dictwe.length = w.nextCode ∧ 256 ≤ w.nextCode ∧ w.nextCode ≤ 4096 ∧
  OneEntryEach w.dictwe ∧ (∀ e ∈ w.dictwe, e.1 ≠ [] ∧ e.2 < w.nextCode) ∧
  (∀ b : Byte, Dict.get? w.dictwe [b] = some b.toNat) ∧
  (w.cur = [] ∨ (Dict.get? w.dictwe w.cur).isSome = true)

/-- `DictInv`'s clause for LZWD (R37, R44, R246). -/
def LzwdOk (w : Work) : Prop :=
  w.dictwd.length = w.nextCode ∧ 256 ≤ w.nextCode ∧ w.nextCode ≤ 4096 ∧
  (∀ b : Byte, Dict.get? w.dictwd b.toNat = some [b]) ∧
  (∀ k, (Dict.get? w.dictwd k).isSome = true ↔ k < w.nextCode)

/-- The clauses hold of the working states that command start sets up (R40 to R44). -/
theorem lz78cOk_start (a : Nat) (w : Work) : Lz78cOk (startWork 0x06#8 a w) :=
  ⟨rfl, ⟨List.nodup_nil, List.nodup_nil⟩, fun _ he => absurd he List.not_mem_nil, .inl rfl⟩

theorem lz78dOk_start (a : Nat) (w : Work) : Lz78dOk (startWork 0x07#8 a w) := by
  refine ⟨rfl, Nat.le_refl 1, rfl, fun k => ?_⟩
  rw [Dict.isSome_get?_iff]
  change k ∈ [0] ↔ k < 1
  rw [List.mem_singleton, Nat.lt_one_iff]

theorem lzwcOk_start (a : Nat) (w : Work) : LzwcOk (startWork 0x08#8 a w) :=
  ⟨length_seedsEncode, Nat.le_refl 256, (by decide : 256 ≤ 4096), oneEntryEach_seedsEncode,
    fun _ he => mem_seedsEncode he, get?_seedsEncode, .inl rfl⟩

theorem lzwdOk_start (a : Nat) (w : Work) : LzwdOk (startWork 0x09#8 a w) := by
  refine ⟨length_seedsDecode, Nat.le_refl 256, (by decide : 256 ≤ 4096), fun b => ?_, fun k => ?_⟩
  · change Dict.get? seedsDecode b.toNat = some [b]
    rw [get?_seedsDecode, if_pos b.isLt, BitVec.ofNat_toNat, BitVec.setWidth_eq]
  · change (Dict.get? seedsDecode k).isSome = true ↔ k < 256
    rw [get?_seedsDecode]
    by_cases hk : k < 256 <;> simp [hk]

/-! #### A new entry -/

/-- LZ78C's new entry: a phrase that is no key, under `NEXT_CODE`, and `CUR` empty (R202). -/
theorem Lz78cOk.insert {w : Work} {b : Byte} (h : Lz78cOk w) (hnew : Dict.get? w.dict78e (w.cur ++ [b]) = none) :
    Lz78cOk { w with
      dict78e := Dict.insert w.dict78e (w.cur ++ [b]) w.nextCode, nextCode := w.nextCode + 1, cur := [] } := by
  obtain ⟨hlen, hone, hcodes, -⟩ := h
  refine ⟨?_, hone.insert hnew fun e he => (hcodes e he).2.2.ne, fun e he => ?_, .inl rfl⟩
  · change (Dict.insert _ _ _).length + 1 = _
    rw [Dict.length_insert _ hnew, hlen]
  · change e ∈ Dict.insert _ _ _ at he
    change _ ∧ _ ∧ e.2 < w.nextCode + 1
    rw [Dict.insert_of_get?_none _ hnew, List.mem_cons] at he
    rcases he with rfl | he
    · exact ⟨List.append_ne_nil_of_right_ne_nil _ (List.cons_ne_nil _ _), by omega, Nat.lt_succ_self _⟩
    · obtain ⟨hne, hfirst, hlt⟩ := hcodes e he
      exact ⟨hne, hfirst, Nat.lt_succ_of_lt hlt⟩

/-- LZ78C's `CUR` becomes a key (R202). -/
theorem Lz78cOk.setCur {w : Work} {p : Phrase} (h : Lz78cOk w) (hp : (Dict.get? w.dict78e p).isSome = true) :
    Lz78cOk { w with cur := p } := by
  obtain ⟨hlen, hone, hcodes, -⟩ := h
  exact ⟨hlen, hone, hcodes, .inr hp⟩

/-- LZ78D's new entry, under `NEXT_CODE` (R210). -/
theorem Lz78dOk.insert {w : Work} (p : Phrase) (h : Lz78dOk w) :
    Lz78dOk { w with dict78d := Dict.insert w.dict78d w.nextCode p, nextCode := w.nextCode + 1 } := by
  obtain ⟨hlen, hpos, hzero, hknown⟩ := h
  refine ⟨?_, Nat.le_add_left 1 _, ?_, Dict.isSome_get?_insert_next p hknown⟩
  · change (Dict.insert _ _ _).length = _
    rw [Dict.length_insert _ (Dict.get?_next_eq_none hknown), hlen]
  · change Dict.get? (Dict.insert _ _ _) 0 = _
    rwa [Dict.get?_insert_ne _ _ (by omega)]

/-- LZWC stores a phrase that is no key, unless the table is full (R232, R234). -/
theorem LzwcOk.storeWe {w : Work} {b : Byte} (h : LzwcOk w) (hnew : Dict.get? w.dictwe (w.cur ++ [b]) = none) :
    LzwcOk (w.storeWe (w.cur ++ [b])) := by
  unfold Work.storeWe
  split
  · rename_i hroom
    obtain ⟨hlen, hmin, -, hone, hcodes, hseeds, hcur⟩ := h
    rw [hlen, Config.maxTable] at hroom
    refine ⟨?_, Nat.le_succ_of_le hmin, hroom, hone.insert hnew fun e he => (hcodes e he).2.ne, fun e he => ?_,
      fun c => ?_, hcur.imp_right (Dict.isSome_get?_insert _ _)⟩
    · change (Dict.insert _ _ _).length = _
      rw [Dict.length_insert _ hnew, hlen]
    · change e ∈ Dict.insert _ _ _ at he
      change _ ∧ e.2 < w.nextCode + 1
      rw [Dict.insert_of_get?_none _ hnew, List.mem_cons] at he
      rcases he with rfl | he
      · exact ⟨List.append_ne_nil_of_right_ne_nil _ (List.cons_ne_nil _ _), Nat.lt_succ_self _⟩
      · exact (hcodes e he).imp_right Nat.lt_succ_of_lt
    · have hc : [c] ≠ w.cur ++ [b] := fun heq => by simp [← heq, hseeds c] at hnew
      change Dict.get? (Dict.insert _ _ _) [c] = _
      rw [Dict.get?_insert_ne _ _ hc, hseeds c]
  · exact h

/-- LZWC's `CUR` becomes a key (R232). -/
theorem LzwcOk.setCur {w : Work} {p : Phrase} (h : LzwcOk w) (hp : (Dict.get? w.dictwe p).isSome = true) :
    LzwcOk { w with cur := p } := by
  obtain ⟨hlen, hmin, hmax, hone, hcodes, hseeds, -⟩ := h
  exact ⟨hlen, hmin, hmax, hone, hcodes, hseeds, .inr hp⟩

/-- LZWD stores a phrase under `NEXT_CODE`, unless the table is full (R240, R243). -/
theorem LzwdOk.storeWd {w : Work} (p : Phrase) (h : LzwdOk w) : LzwdOk (w.storeWd p) := by
  unfold Work.storeWd
  split
  · rename_i hroom
    obtain ⟨hlen, hmin, -, hseeds, hknown⟩ := h
    rw [hlen, Config.maxTable] at hroom
    refine ⟨?_, Nat.le_succ_of_le hmin, hroom, fun b => ?_, Dict.isSome_get?_insert_next p hknown⟩
    · change (Dict.insert _ _ _).length = _
      rw [Dict.length_insert _ (Dict.get?_next_eq_none hknown), hlen]
    · have hb : b.toNat ≠ w.nextCode := (b.isLt.trans_le hmin).ne
      change Dict.get? (Dict.insert _ _ _) b.toNat = _
      rw [Dict.get?_insert_ne _ _ hb, hseeds b]
  · exact h

/-! ### An iteration of each command goes on with its clause -/

theorem lz78cIter_ok {s : State} (h : Lz78cOk s.work) : OutIteration Lz78cOk s (lz78cIter s) := by
  have h' : Lz78cOk (s.advance 1).work := h
  exact lz78cIter_outIteration (lz78cByte_outIteration (fun hkey => h'.setCur hkey) fun hnew => h'.insert hnew)

theorem lz78dIter_ok {s : State} (h : Lz78dOk s.work) : OutIteration Lz78dOk s (lz78dIter s) :=
  lz78dIter_outIteration fun _ _ n => pairEffect_outIteration fun _ =>
    Lz78dOk.insert (w := (s.advance n).work) _ h

theorem lzwcIter_ok {s : State} (h : LzwcOk s.work) : OutIteration LzwcOk s (lzwcIter s) := by
  have h' : LzwcOk (s.advance 1).work := h
  refine lzwcIter_outIteration (lzwcByte_outIteration (fun hkey => h'.setCur hkey) fun hnew => ?_)
  have hstored := h'.storeWe hnew
  obtain ⟨-, -, -, -, -, hseeds, -⟩ := id hstored
  exact hstored.setCur (by rw [hseeds]; rfl)

theorem lzwdIter_ok {s : State} (h : LzwdOk s.work) : OutIteration LzwdOk s (lzwdIter s) :=
  lzwdIter_outIteration fun _ n => codeEffect_outIteration (fun _ => h) fun p _ =>
    LzwdOk.storeWd (w := (s.advance n).work) p h

/-! ### The invariant through starts, iterations and the host's moves -/

theorem DictInv.of_not_busy {s : State} (h : s.status ≠ .busy) : DictInv s :=
  ⟨fun hr => absurd hr.1 h, fun hr => absurd hr.1 h, fun hr => absurd hr.1 h, fun hr => absurd hr.1 h⟩

/-- Every command start sets the invariant up (R40). -/
theorem DictInv.start (op : Byte) (s : State) : DictInv (start op s) := by
  refine ⟨fun hr => ?_, fun hr => ?_, fun hr => ?_, fun hr => ?_⟩ <;>
    obtain rfl : op = _ := (start_cmd op s).symm.trans hr.2
  · exact lz78cOk_start s.arg0 s.work
  · exact lz78dOk_start s.arg0 s.work
  · exact lzwcOk_start s.arg0 s.work
  · exact lzwdOk_start s.arg0 s.work

/-- Every iteration of a running command keeps the invariant. -/
theorem DictInv.engineIter {s : State} (h : DictInv s) (hb : s.status = .busy) : DictInv (engineIter s) := by
  have hcmd {op : Byte} (hr : (Machine.engineIter s).running op) : s.cmd = op := (engineIter_cmd s).symm.trans hr.2
  have hguard {P : Work → Prop} {iter : State → State} (heq : Machine.engineIter s = guardLen iter s)
      (hit : OutIteration P s (iter s)) (hr : (Machine.engineIter s).status = .busy) : P (Machine.engineIter s).work :=
    OutIteration.work_of_busy (heq ▸ guardLen_outIteration hit) hr
  refine ⟨fun hr => ?_, fun hr => ?_, fun hr => ?_, fun hr => ?_⟩
  · have hc := hcmd hr
    exact hguard (by rw [Machine.engineIter, hc]; rfl) (lz78cIter_ok (h.lz78c ⟨hb, hc⟩)) hr.1
  · have hc := hcmd hr
    exact hguard (by rw [Machine.engineIter, hc]; rfl) (lz78dIter_ok (h.lz78d ⟨hb, hc⟩)) hr.1
  · have hc := hcmd hr
    exact hguard (by rw [Machine.engineIter, hc]; rfl) (lzwcIter_ok (h.lzwc ⟨hb, hc⟩)) hr.1
  · have hc := hcmd hr
    exact hguard (by rw [Machine.engineIter, hc]; rfl) (lzwdIter_ok (h.lzwd ⟨hb, hc⟩)) hr.1

/-- A command's run keeps what its start has set up. -/
theorem DictInv.exec {i : Instr} {s t : State} (hi : IsIssued i) (hb : s.status ≠ .busy) (ht : exec i s = .next t) :
    DictInv t := by
  rw [exec_eq_runLoop hi hb] at ht
  cases ht
  exact runLoop_keeps DictInv Machine.engineIter (fun _ hs hbusy => hs.engineIter hbusy) _ (DictInv.start _ s)

theorem DictInv.writeReg {s t : State} {r : Reg} {v : Nat} (hb : s.status ≠ .busy) (ht : writeReg s r v = .next t) :
    DictInv t := by
  cases r with
  | cmd => exact .exec (isIssued_decodeCommand _) hb ht
  | wsize | lsize | inLen | arg0 | status | errkind | outLen | res0 | res1 | res2 => cases ht; exact .of_not_busy hb

/-- A host's move leaves no command running but one it has just run. -/
theorem DictInv.hostMove {s t : State} {op : HostOp} (hb : s.status ≠ .busy) (ht : hostMove op s = .next t) :
    DictInv t := by
  cases op with
  | writeReg off v =>
    simp only [Machine.hostMove] at ht
    split at ht
    · exact .writeReg hb ht
    · cases ht; exact .of_not_busy hb
    · cases ht
  | readReg off =>
    simp only [Machine.hostMove] at ht
    split at ht <;> cases ht <;> exact .of_not_busy hb
  | writeIn a b =>
    simp only [Machine.hostMove] at ht
    split at ht <;> cases ht
    exact .of_not_busy hb
  | readOut a =>
    simp only [Machine.hostMove, readOut] at ht
    split at ht <;> cases ht
    split <;> exact .of_not_busy hb
  | copyOutToIn =>
    simp only [Machine.hostMove] at ht
    split at ht <;> cases ht
    exact .of_not_busy hb
  | reset =>
    cases ht
    exact .of_not_busy nofun

/-- Settles O58: an iteration of the engine keeps the invariant, and a step with no command running either leaves none
running or is a command's whole run. -/
theorem dictionaryInvariantKept : Obligations.DictionaryInvariantKept := by
  refine ⟨DictInv.start, fun s t h ht => ?_⟩
  unfold step at ht
  split at ht
  · cases ht
    exact h.engineIter ‹_›
  · rename_i hb
    split at ht
    · cases ht
      exact h
    · rename_i op rest _
      exact .hostMove (s := { s with host := rest }) hb ht

end Sys2Proof.Machine
end

section
/-! SUPPORT. Proofs: what a command and a stream unit leave unchanged (O37, O41, O42). -/

namespace Sys2Proof.Machine

/-! ### The registers a command writes -/

theorem KeepsOut.trans {s t u : State} (h : KeepsOut s t) (h' : KeepsOut t u) : KeepsOut s u :=
  ⟨h'.outLen.trans h.outLen, fun a => (h'.outByte a).trans (h.outByte a)⟩

theorem KeepsResults.trans {s t u : State} (h : KeepsResults s t) (h' : KeepsResults t u) : KeepsResults s u :=
  ⟨h'.res0.trans h.res0, h'.res1.trans h.res1, h'.res2.trans h.res2⟩

/-- A command with result registers writes no `OUT` (R287). -/
theorem ownsOut_of_ownsResults {op : Byte} (h : ownsResults op = true) : ownsOut op = false := by
  simp only [ownsOut, ownsResults, Bool.or_eq_true, Bool.or_eq_false_iff, Bool.and_eq_false_imp, decide_eq_true_eq,
    decide_eq_false_iff_not, beq_iff_eq, beq_eq_false_iff_ne] at h ⊢
  omega

/-- Command start leaves `OUT` to the commands that do not own it. -/
theorem start_keepsOut {op : Byte} (s : State) (h : ownsOut op = false) : KeepsOut s (start op s) := by
  unfold start State.clearOwned
  rw [State.latch_cmd, h]
  exact ⟨rfl, fun _ => rfl⟩

/-- What one iteration of a command keeps: `CMD`, the host's side, and the output or the results, whichever the command
does not own; VDEC keeps `RES2` too, unless it fails (R33, R48, R64, R133). -/
structure IterationKeeps (s t : State) : Prop where
  cmd : t.cmd = s.cmd
  hostSide : KeepsHostSide s t
  results : ownsResults s.cmd = false → KeepsResults s t
  out : ownsResults s.cmd = true → KeepsOut s t
  res2 : s.cmd = 0x02#8 → t.status ≠ .error → t.res2 = s.res2

namespace IterationKeeps

theorem refl (s : State) : IterationKeeps s s :=
  ⟨rfl, .refl s, fun _ => ⟨rfl, rfl, rfl⟩, fun _ => ⟨rfl, fun _ => rfl⟩, fun _ _ => rfl⟩

theorem trans {s t u : State} (h : IterationKeeps s t) (ht : t.status ≠ .error) (h' : IterationKeeps t u) :
    IterationKeeps s u where
  cmd := h'.cmd.trans h.cmd
  hostSide := h.hostSide.trans h'.hostSide
  results ho := (h.results ho).trans (h'.results (h.cmd ▸ ho))
  out ho := (h.out ho).trans (h'.out (h.cmd ▸ ho))
  res2 hc hu := (h'.res2 (h.cmd.trans hc) hu).trans (h.res2 hc ht)

theorem setWork (s : State) (w : Work) : IterationKeeps s (s.setWork w) :=
  ⟨rfl, .of_fields rfl rfl rfl rfl rfl rfl rfl rfl rfl, fun _ => ⟨rfl, rfl, rfl⟩, fun _ => ⟨rfl, fun _ => rfl⟩,
    fun _ _ => rfl⟩

theorem raise (k : ErrKind) (s : State) : IterationKeeps s (raise k s) where
  cmd := raise_cmd k s
  hostSide := raise_keepsHostSide k s
  results ho := raise_keepsResults k s ho
  out ho := raise_keepsOut k s (ownsOut_of_ownsResults ho)
  res2 _ hs := absurd (raise_status k s) hs

theorem finish (s : State) : IterationKeeps s (finish s) where
  cmd := finish_cmd s
  hostSide := finish_keepsHostSide s
  results _ := ⟨rfl, rfl, rfl⟩
  out _ := finish_keepsOut s
  res2 _ _ := finish_res2 s

/-- Success with results: VDEC's in `RES0` and `RES1`, MATCH's in all three (R133, R153). -/
theorem finish_results {s : State} (r0 r1 : Nat) (r2 : BitVec 9) (h : ownsResults s.cmd = true)
    (h2 : s.cmd = 0x02#8 → r2 = s.res2) :
    IterationKeeps s (Machine.finish { s with res0 := r0, res1 := r1, res2 := r2 }) where
  cmd := rfl
  hostSide := .of_fields rfl rfl rfl rfl rfl rfl rfl rfl rfl
  results ho := absurd h (by simp [ho])
  out _ := ⟨rfl, fun _ => rfl⟩
  res2 hc _ := h2 hc

/-- Appends, by a command without result registers. -/
theorem grown {s : State} (bs : List Byte) (w : Work) (h : ownsResults s.cmd = false) :
    IterationKeeps s (s.grown bs w) where
  cmd := s.grown_cmd bs w
  hostSide := .grown s bs w
  results _ := .grown s bs w
  out ho := absurd ho (by simp [h])
  res2 _ _ := (KeepsResults.grown s bs w).res2

end IterationKeeps

theorem OutIteration.keeps {P : Work → Prop} {s t : State} (h : OutIteration P s t) (hs : s.status = .busy)
    (ho : ownsResults s.cmd = false) : IterationKeeps s t := by
  have hgrown (bs : List Byte) (w : Work) : (s.grown bs w).status ≠ .error := by simp [hs]
  cases h with
  | goesOn bs _ => exact .grown bs _ ho
  | raises bs w k => exact (IterationKeeps.grown bs w ho).trans (hgrown bs w) (.raise k _)
  | finishes bs w => exact (IterationKeeps.grown bs w ho).trans (hgrown bs w) (.finish _)

/-! ### VDEC and MATCH -/

theorem vdecEnd_keeps {s : State} (h : s.cmd = 0x02#8) : IterationKeeps s (vdecEnd s) := by
  unfold vdecEnd
  split
  · exact .finish_results _ _ _ (by rw [h]; rfl) fun _ => rfl
  · exact .raise .overflow s

theorem lastEffect_keeps (g : Group) {s : State} (hs : s.status = .busy) : IterationKeeps s (lastEffect g s) := by
  have hgroup : IterationKeeps s (addGroup g s) := .setWork s _
  unfold lastEffect
  split
  · exact hgroup.trans (by simp [addGroup, hs]) (vdecEnd_keeps ‹_›)
  · exact hgroup

theorem contEffect_keeps (g : Group) (s : State) : IterationKeeps s (contEffect g s) := .setWork s _

theorem vdecIter_keeps {s : State} (hs : s.status = .busy) : IterationKeeps s (vdecIter s) := by
  unfold vdecIter
  split
  · exact .raise _ s
  · rename_i i n hu
    obtain ⟨-, -, rfl⟩ := State.unitAt_varint hu
    have hadvance : IterationKeeps s (s.advanceVarint n) := .setWork s _
    have hbusy : (s.advanceVarint n).status = .busy := hs
    refine hadvance.trans (by rw [hbusy]; decide) ?_
    unfold decodeVarintByte
    split
    · exact contEffect_keeps _ _
    · exact lastEffect_keeps _ hbusy

theorem matchBody_keeps {s : State} (hs : s.status = .busy) (hc : s.cmd = 0x03#8) :
    IterationKeeps s (matchBody s) := by
  unfold matchBody
  split
  · exact .raise .illegalOperation s
  · have hsearch : IterationKeeps s (runMatcher s.arg0 s) := .setWork s _
    have hcmd : (runMatcher s.arg0 s).cmd = 0x03#8 := hc
    refine hsearch.trans (by simp [runMatcher, hs]) (.finish_results _ _ _ (by rw [hcmd]; rfl) fun h2 => ?_)
    exact absurd (hcmd.symm.trans h2) (by decide)

/-! ### The engine's iteration and the whole command (O37) -/

theorem guardLen_keeps {iter : State → State} {s : State} (h : IterationKeeps s (iter s)) :
    IterationKeeps s (guardLen iter s) := by
  unfold guardLen
  split
  · exact .raise .illegalOperation s
  · exact h

theorem clear_keeps {s : State} (h : s.cmd = 0x0F#8) : IterationKeeps s (clear s) where
  cmd := rfl
  hostSide := .of_fields rfl rfl rfl rfl rfl rfl rfl rfl rfl
  results _ := ⟨rfl, rfl, rfl⟩
  out ho := by simp [h, ownsResults] at ho
  res2 _ _ := rfl

theorem engineIter_keeps {s : State} (hs : s.status = .busy) : IterationKeeps s (engineIter s) := by
  have hcmd {n : Nat} (hn : s.cmd.toNat = n) : s.cmd = BitVec.ofNat 8 n := by rw [← hn]; simp
  have hout {P : Work → Prop} {iter : State → State} (hit : OutIteration P s (iter s))
      (ho : ownsResults s.cmd = false) : IterationKeeps s (guardLen iter s) := guardLen_keeps (hit.keeps hs ho)
  unfold engineIter
  split
  · exact (vencBody_outIteration (P := fun _ => False) s).keeps hs (by simp [ownsResults, *])
  · exact guardLen_keeps (vdecIter_keeps hs)
  · exact guardLen_keeps (matchBody_keeps hs (hcmd ‹_›))
  · exact hout (lz77cIter_outIteration s) (by simp [ownsResults, *])
  · exact hout (lz77dIter_outIteration s) (by simp [ownsResults, *])
  · exact hout (P := fun _ => True)
      (lz78cIter_outIteration (lz78cByte_outIteration (fun _ => trivial) fun _ => trivial))
      (by simp [ownsResults, *])
  · exact hout (P := fun _ => True) (lz78dIter_outIteration fun _ _ _ => pairEffect_outIteration fun _ => trivial)
      (by simp [ownsResults, *])
  · exact hout (P := fun _ => True)
      (lzwcIter_outIteration (lzwcByte_outIteration (fun _ => trivial) fun _ => trivial))
      (by simp [ownsResults, *])
  · exact hout (P := fun _ => True)
      (lzwdIter_outIteration fun _ _ => codeEffect_outIteration (fun _ => trivial) fun _ _ => trivial)
      (by simp [ownsResults, *])
  · exact clear_keeps (hcmd ‹_›)
  · exact .raise .illegalOperation s

theorem runLoop_engineIter_keeps (n : Nat) (s : State) : IterationKeeps s (runLoop engineIter n s) :=
  runLoop_keeps (IterationKeeps s) engineIter
    (fun _ hu hb => hu.trans (by simp [hb]) (engineIter_keeps hb)) n (.refl s)

/-- A command that answers a next state was not issued while `BUSY` (R74). -/
theorem not_busy_of_exec {i : Instr} {s t : State} (hi : IsIssued i) (h : exec i s = .next t) : s.status ≠ .busy := by
  have hformat := hi.1
  cases i with
  | venc | vdec | matcher | lz77c | lz77d | lz78c | lz78d | lzwc | lzwd | clr | illegal => exact (issue_next h).1
  | varintCont | varintLast | lz77tokNolit | lz77tokLit | lz77tokReserved | lz78pair | lzwcode => cases hformat

theorem ownsResults_of_mem_outCommands : ∀ i ∈ outCommands, ownsResults (opcode i) = false := by decide

/-- Settles O37: the command's start keeps it, and so does every iteration. -/
theorem commandFrame : Obligations.CommandFrame := by
  intro i s t hi ht
  rw [exec_eq_runLoop hi (not_busy_of_exec hi ht)] at ht
  cases ht
  have hrun := runLoop_engineIter_keeps (iterations i s.inLen) (start (opcode i) s)
  generalize runLoop engineIter (iterations i s.inLen) (start (opcode i) s) = t at hrun
  obtain ⟨hcmd, hside, hres, hout, hres2⟩ := hrun
  rw [start_cmd] at hcmd hres hout hres2
  refine ⟨hcmd, (start_keepsHostSide _ s).trans hside, fun ho => ?_, fun ho => ?_, fun hi hd => ?_⟩
  · refine (start_keepsResults _ s).trans (hres ?_)
    rcases ho with ho | rfl
    · exact ownsResults_of_mem_outCommands i ho
    · rfl
  · have hown : ownsResults (opcode i) = true := by rcases ho with rfl | rfl <;> rfl
    exact (start_keepsOut s (ownsOut_of_ownsResults hown)).trans (hout hown)
  · rw [hres2 (by rw [hi]; rfl) (by simp [hd]), (start_keepsResults _ s).res2]

/-! ### The stream units (O41) -/

/-- A stream unit that answers a next state ran inside a command that consumes it, and had its effect (R90). -/
theorem exec_unit_next {i : Instr} {s t : State} (hi : i.format ≠ .cmd8) (h : exec i s = .next t) :
    s.status = .busy ∧ s.cmd ∈ consumers i ∧ t = unitEffect i s := by
  cases i with
  | venc | vdec | matcher | lz77c | lz77d | lz78c | lz78d | lzwc | lzwd | clr | illegal => exact absurd rfl hi
  | varintCont | varintLast | lz77tokNolit | lz77tokLit | lz77tokReserved | lz78pair | lzwcode => exact asUnit_next h

/-- Only a varint's bytes are consumed by VDEC (R133). -/
theorem unit_of_vdec {i : Instr} (h : 0x02#8 ∈ consumers i) : (∃ g, i = .varintCont g) ∨ ∃ g, i = .varintLast g := by
  cases i with
  | varintCont g => exact .inl ⟨g, rfl⟩
  | varintLast g => exact .inr ⟨g, rfl⟩
  | _ => simp [consumers] at h

/-- The commands that consume a unit have no result registers, but for VDEC (R287). -/
theorem ownsResults_of_mem_consumers {i : Instr} {op : Byte} (h : op ∈ consumers i) (h2 : op ≠ 0x02#8) :
    ownsResults op = false := by
  have hop : op = 0x05#8 ∨ op = 0x07#8 ∨ op = 0x09#8 := by
    cases i <;> simp only [consumers, List.mem_cons, List.not_mem_nil, or_false] at h <;> tauto
  rcases hop with rfl | rfl | rfl <;> rfl

/-- A stream unit inside a decoder that writes `OUT`. -/
theorem unitEffect_outIteration {i : Instr} {s : State} (h : s.cmd ∈ consumers i) (h2 : s.cmd ≠ 0x02#8) :
    OutIteration (fun _ => True) s (unitEffect i s) := by
  cases i with
  | venc | vdec | matcher | lz77c | lz77d | lz78c | lz78d | lzwc | lzwd | clr | illegal => cases h
  | varintCont g => exact .setWork s trivial
  | varintLast g =>
    rw [unitEffect, lastEffect, if_neg h2]
    exact .setWork s trivial
  | lz77tokNolit d l | lz77tokLit d l c => exact .of_setWork _ (applyToken_outIteration trivial)
  | lz77tokReserved d l m => exact .raise .corruptStream s
  | lz78pair index c => exact pairEffect_outIteration fun _ => trivial
  | lzwcode k => exact codeEffect_outIteration (fun _ => trivial) fun _ _ => trivial

/-- Unless an iteration fails, it appends to `OUT` and leaves `KIND` (R63, R65). -/
def OnlyAppends (s t : State) : Prop :=
  t.status ≠ .error → t.kind = s.kind ∧ s.outLen ≤ t.outLen ∧
    ∀ a, a < s.outLen ∨ t.outLen ≤ a → t.outByte a = s.outByte a

theorem OutIteration.onlyAppends {P : Work → Prop} {s t : State} (h : OutIteration P s t) : OnlyAppends s t := by
  intro hs
  cases h with
  | goesOn bs h =>
    exact ⟨s.grown_kind bs _, by simp, fun a ha => s.outByte_grown bs _ (by simpa using ha)⟩
  | raises bs w k => exact absurd (raise_status k _) hs
  | finishes bs w =>
    exact ⟨s.grown_kind bs w, by simp, fun a ha => s.outByte_grown bs w (by simpa using ha)⟩

theorem OnlyAppends.of_keepsOut {s t : State} (h : KeepsOut s t) (hk : t.status ≠ .error → t.kind = s.kind) :
    OnlyAppends s t := fun hs => ⟨hk hs, h.outLen.ge, fun a _ => h.outByte a⟩

theorem lastEffect_kind {g : Group} {s : State} (h : (lastEffect g s).status ≠ .error) :
    (lastEffect g s).kind = s.kind := by
  unfold lastEffect vdecEnd at *
  split
  · split
    · rfl
    · simp_all
  · rfl

/-- A varint byte in VDEC (R132, R133). -/
theorem vdecUnit_keeps {i : Instr} {s : State} (hs : s.status = .busy) (hc : s.cmd = 0x02#8)
    (h : s.cmd ∈ consumers i) : IterationKeeps s (unitEffect i s) ∧ OnlyAppends s (unitEffect i s) := by
  have hown : ownsResults s.cmd = true := by rw [hc]; rfl
  rcases unit_of_vdec (hc ▸ h) with ⟨g, rfl⟩ | ⟨g, rfl⟩
  · have hkeeps := contEffect_keeps g s
    exact ⟨hkeeps, .of_keepsOut (hkeeps.out hown) fun _ => rfl⟩
  · have hkeeps := lastEffect_keeps g hs
    exact ⟨hkeeps, .of_keepsOut (hkeeps.out hown) lastEffect_kind⟩

theorem unitEffect_keeps {i : Instr} {s : State} (hs : s.status = .busy) (h : s.cmd ∈ consumers i) :
    IterationKeeps s (unitEffect i s) ∧ OnlyAppends s (unitEffect i s) := by
  by_cases h2 : s.cmd = 0x02#8
  · exact vdecUnit_keeps hs h2 h
  · have hit := unitEffect_outIteration h h2
    exact ⟨hit.keeps hs (ownsResults_of_mem_consumers h h2), hit.onlyAppends⟩

/-- Settles O41: a varint byte in VDEC, or a unit of a decoder that writes `OUT`. -/
theorem streamUnitFrame : Obligations.StreamUnitFrame := by
  intro i s t hi ht
  obtain ⟨hs, hc, rfl⟩ := exec_unit_next hi ht
  obtain ⟨hkeeps, happends⟩ := unitEffect_keeps hs hc
  exact ⟨hkeeps.cmd, hkeeps.hostSide, fun h2 => hkeeps.results (ownsResults_of_mem_consumers hc h2),
    fun h2 => hkeeps.out (by rw [h2]; rfl), happends⟩

/-! ### The working registers a stream unit writes (O42) -/

/-- VDEC's end leaves no command running (R133). -/
theorem vdecEnd_not_busy (s : State) : (vdecEnd s).status ≠ .busy := by
  unfold vdecEnd
  split <;> simp

/-- A last varint byte after which the command runs on has added its group (R132). -/
theorem lastEffect_of_busy {g : Group} {s : State} (h : (lastEffect g s).status = .busy) :
    lastEffect g s = addGroup g s := by
  unfold lastEffect at *
  split
  · rename_i hc
    rw [if_pos hc] at h
    exact absurd h (vdecEnd_not_busy _)
  · rfl

/-- Settles O42: where the command runs on, a unit has the working state it goes on with. -/
theorem unitsKeepOtherWorkingRegisters : Obligations.UnitsKeepOtherWorkingRegisters := by
  intro s t ht
  have hwork {P : Work → Prop} {ops : List Byte} {effect : State → State} (he : asUnit ops effect s = .next t)
      (hit : OutIteration P s (effect s)) : P t.work := by
    obtain ⟨-, -, rfl⟩ := asUnit_next he
    exact hit.work_of_busy ht
  refine ⟨fun g he => ?_, fun d l he => ?_, fun d l c he => ?_, fun d l m he => ?_, fun index c he => ?_,
    fun k he => ?_⟩
  · obtain rfl : t = addGroup g s := by
      rcases he with he | he <;> obtain ⟨-, -, rfl⟩ := asUnit_next he
      · rfl
      · exact lastEffect_of_busy ht
    rfl
  · exact hwork (P := (· = { s.work with tDist := d, tLen := l, tNext := none })) he
      (.of_setWork _ (applyToken_outIteration rfl))
  · exact hwork (P := (· = { s.work with tDist := d, tLen := l, tNext := some c })) he
      (.of_setWork _ (applyToken_outIteration rfl))
  · exact hwork (P := fun _ => False) he (.raise .corruptStream s)
  · exact hwork (P := fun w => w = { s.work with dict78d := w.dict78d, nextCode := w.nextCode }) he
      (pairEffect_outIteration fun _ => rfl)
  · exact hwork (P := fun w => w = { s.work with prev := w.prev, dictwd := w.dictwd, nextCode := w.nextCode }) he
      (codeEffect_outIteration (fun _ => rfl) fun p _ => by unfold Work.storeWd; split <;> rfl)

end Sys2Proof.Machine
end

section
/-! SUPPORT. Proofs: the steps of the host's moves, of a running decoder, and the reset state (O44, O45, O47, O48, O49,
O54, O56). -/

namespace Sys2Proof.Machine

/-! ### The host's moves (R21, R48, R49) -/

/-- With no command running, a step is the host's next move (R74). -/
theorem step_of_host {s : State} {op : HostOp} {rest : List HostOp} (hb : s.status ≠ .busy) (h : s.host = op :: rest) :
    step s = hostMove op { s with host := rest } := by
  rw [step, if_neg hb, h]

/-- Settles O44: the step is the host's move, and that one is the command's `exec`. -/
theorem cmdWriteStepRunsTheCommand : Obligations.CmdWriteStepRunsTheCommand := fun _ _ _ hb h => step_of_host hb h

/-- Offsets 0x2C and above are reserved (R21). -/
theorem regSlot_reserved {off : Nat} (h : 0x2C ≤ off) : regSlot off = .reserved := by
  unfold regSlot
  split
  iterate 11 omega
  exact if_pos h

/-- Settles O47: each offset of the map is a register's, which the move reads. -/
theorem registerMapReads : Obligations.RegisterMapReads := by
  intro s off v rest hb hhost hv
  rw [step_of_host hb hhost]
  rcases hv with hv | ⟨hoff, rfl⟩
  · simp only [List.mem_cons, Prod.mk.injEq, List.not_mem_nil, or_false] at hv
    rcases hv with ⟨rfl, rfl⟩ | ⟨rfl, rfl⟩ | ⟨rfl, rfl⟩ | ⟨rfl, rfl⟩ | ⟨rfl, rfl⟩ | ⟨rfl, rfl⟩ | ⟨rfl, rfl⟩ |
      ⟨rfl, rfl⟩ | ⟨rfl, rfl⟩ | ⟨rfl, rfl⟩ | ⟨rfl, rfl⟩ <;> rfl
  · rw [hostMove, regSlot_reserved hoff]

/-- Settles O48: a value that fits is stored whole in the register at its offset; no other offset stores it. -/
theorem registerMapWrites : Obligations.RegisterMapWrites := by
  intro s off v rest hb hhost
  rw [step_of_host hb hhost]
  refine ⟨fun hfits => ?_, fun hoff => ?_⟩
  · have hkeep : s.par.trunc v = v := hfits
    refine ⟨?_, ?_, ?_, ?_⟩ <;> rintro rfl <;> simp only [hostMove, regSlot, writeReg, hkeep]
  · rcases hoff with hoff | hoff
    · simp only [List.mem_cons, List.not_mem_nil, or_false] at hoff
      rcases hoff with rfl | rfl | rfl | rfl | rfl | rfl <;> rfl
    · rw [hostMove, regSlot_reserved hoff]

/-- `IN` after the host's write of one byte (R48). -/
theorem inByte_setIn (s : State) (a x : Nat) (b : Byte) :
    { s with inBuf := s.inBuf.set a b }.inByte x = if x = a then b else s.inByte x := by
  simp only [State.inByte, Mem.get?_set]
  split <;> simp

theorem hostMove_writeIn {s : State} {a : Nat} (b : Byte) (h : inside s.par.inCap a = true) :
    hostMove (.writeIn a b) s = .next { s with inBuf := s.inBuf.set a b } := if_pos h

theorem hostMove_readOut {s : State} {a : Nat} (h : inside s.par.outCap a = true) :
    hostMove (.readOut a) s = .next (readOut a s) := if_pos h

/-- Settles O49: the byte written is the one read, and a read of `OUT` is one of `outByte` below `OUT_LEN`. -/
theorem hostWriteOfInIsRead : Obligations.HostWriteOfInIsRead := by
  refine ⟨fun s a b rest hb hhost => ⟨fun hin => ?_, fun hout => ?_⟩,
    fun s a rest hb hhost => ⟨fun hin => ?_, fun hout => ?_⟩⟩ <;> rw [step_of_host hb hhost]
  · have hread (x : Nat) := inByte_setIn { s with host := rest } a x b
    refine ⟨_, hostMove_writeIn b hin, ?_, fun x hx => ?_, rfl, ⟨rfl, fun _ => rfl⟩, ⟨rfl, rfl, rfl⟩, ⟨rfl, rfl, rfl⟩⟩
    · rw [hread, if_pos rfl]
    · rw [hread, if_neg hx]
      rfl
  · exact if_neg (by simp [hout])
  · rw [hostMove_readOut (s := { s with host := rest }) hin]
    refine ⟨fun hlt => congrArg _ (readOut_of_lt hlt), fun hle => ?_⟩
    obtain ⟨b, n, hread⟩ := readOut_of_le (s := { s with host := rest }) hle
    exact ⟨b, n, congrArg _ hread⟩
  · exact if_neg (by simp [hout])

/-! ### A step of a running decoder (R106, R132, R180, R210, R240) -/

/-- A stream unit inside a command that consumes it has its effect (R90). -/
theorem exec_unit_of_running {i : Instr} {s : State} (hs : s.status = .busy) (h : s.cmd ∈ consumers i) :
    exec i s = .next (unitEffect i s) := by
  cases i with
  | venc | vdec | matcher | lz77c | lz77d | lz78c | lz78d | lzwc | lzwd | clr | illegal => cases h
  | varintCont | varintLast | lz77tokNolit | lz77tokLit | lz77tokReserved | lz78pair | lzwcode =>
    exact asUnit_of_running hs h

/-- The command that takes its units in format `f` consumes what decodes in it (R106). -/
theorem unitCommand_mem_consumers {f : Format} {bs : List Byte} {i : Instr} {n : Nat} (hf : f ≠ .cmd8)
    (h : decode f bs = .ok i n) : unitCommand f ∈ consumers i := by
  cases f with
  | cmd8 => exact absurd rfl hf
  | varint =>
    cases bs with
    | nil => cases h
    | cons x xs =>
      cases h
      unfold decodeVarintByte
      split <;> exact List.mem_cons_self
  | lz77tok =>
    have hi := (decodeToken_ok h).1
    cases i with
    | lz77tokNolit | lz77tokLit | lz77tokReserved => exact List.mem_cons_self
    | _ => cases hi
  | lz78pair =>
    have hi := (decodePair_ok h).1
    cases i with
    | lz78pair => exact List.mem_cons_self
    | _ => cases hi
  | lzwcode =>
    obtain ⟨⟨k, rfl⟩, -⟩ := decodeCode_ok h
    exact List.mem_cons_self

/-- One iteration of the decoder that takes its units in format `f` (for LZWD, past its tests of the whole stream). -/
theorem decoderIter_of_ok {f : Format} {s : State} {i : Instr} {n : Nat} (hs : s.status = .busy)
    (hc : s.cmd = unitCommand f) (hf : f ≠ .cmd8) (hpos : s.work.pos < s.inLen)
    (h : decode f (s.inFrom s.work.pos) = .ok i n) : .next (decoderIter f s) = exec i (s.advance n) := by
  have hcons : (s.advance n).cmd ∈ consumers i := by
    rw [State.advance_cmd, hc]
    exact unitCommand_mem_consumers hf h
  rw [exec_unit_of_running (s := s.advance n) hs hcons, decoderIter, if_pos hpos, State.unitAt, h]

theorem decoderIter_of_error {f : Format} {s : State} {e : DecodeError} (hpos : s.work.pos < s.inLen)
    (h : decode f (s.inFrom s.work.pos) = .error e) : decoderIter f s = raise (errorKind e) s := by
  rw [decoderIter, if_pos hpos, State.unitAt, h]

theorem vdecIter_of_ok {s : State} {i : Instr} {n : Nat} (hs : s.status = .busy) (hc : s.cmd = 0x02#8)
    (h : decode .varint (s.inFrom s.work.vOff) = .ok i n) : .next (vdecIter s) = exec i (s.advanceVarint n) := by
  have hcons : (s.advanceVarint n).cmd ∈ consumers i := by
    change s.cmd ∈ _
    rw [hc]
    exact unitCommand_mem_consumers (f := .varint) nofun h
  rw [exec_unit_of_running (s := s.advanceVarint n) hs hcons, vdecIter, State.unitAt, h]

theorem vdecIter_of_end {s : State} (h : s.inLen ≤ s.work.vOff) : vdecIter s = raise .malformedInput s := by
  have hnil : s.inFrom s.work.vOff = [] := List.length_eq_zero_iff.mp (by rw [State.length_inFrom]; omega)
  rw [vdecIter, State.unitAt, hnil]
  rfl

/-- Past its tests of the whole stream LZWD decodes its code words (R238, R239). -/
theorem lzwdIter_of_inside {s : State} (hpos : s.work.pos < s.inLen) (heven : s.work.pos = 0 → s.inLen % 2 = 0) :
    lzwdIter s = decoderIter .lzwcode s := by
  unfold lzwdIter
  split
  · rename_i h0
    rw [if_neg (by simp [heven h0]), if_neg (by omega)]
  · rfl

theorem lzwdIter_of_odd {s : State} (h0 : s.work.pos = 0) (hodd : s.inLen % 2 = 1) :
    lzwdIter s = raise .malformedInput s := by
  rw [lzwdIter, if_pos h0, if_pos hodd]

section
variable {s : State}

/-- A step of a running command whose engine iteration is `iter` behind the input-length test (R262). -/
theorem step_of_running {iter : State → State} (hs : s.status = .busy) (hin : s.inputOk)
    (h : engineIter s = guardLen iter s) : step s = .next (iter s) := by
  rw [step, if_pos hs, h, guardLen_of_ok hin]

theorem step_vdec (hs : s.status = .busy) (hin : s.inputOk) (hc : s.cmd = 0x02#8) : step s = .next (vdecIter s) :=
  step_of_running hs hin (by rw [engineIter, hc]; rfl)

theorem step_lz77d (hs : s.status = .busy) (hin : s.inputOk) (hc : s.cmd = 0x05#8) :
    step s = .next (decoderIter .lz77tok s) :=
  step_of_running hs hin (by rw [engineIter, hc]; rfl)

theorem step_lz78d (hs : s.status = .busy) (hin : s.inputOk) (hc : s.cmd = 0x07#8) :
    step s = .next (decoderIter .lz78pair s) :=
  step_of_running hs hin (by rw [engineIter, hc]; rfl)

theorem step_lzwd (hs : s.status = .busy) (hin : s.inputOk) (hc : s.cmd = 0x09#8) : step s = .next (lzwdIter s) :=
  step_of_running hs hin (by rw [engineIter, hc]; rfl)

/-- A decoder that writes `OUT` withdraws its output when it fails (R187, R287). -/
theorem stepRaises_of_step {k : ErrKind} (h : step s = .next (raise k s)) (ho : ownsOut s.cmd = true)
    (hr : ownsResults s.cmd = false) : StepRaises k s :=
  ⟨_, h, raise_cmd k s, raise_status k s, raise_kind k s, by rw [raise_outLen, if_pos ho], raise_keepsHostSide k s,
    raise_keepsResults k s hr⟩

end

/-- Settles O45: a whole unit at the cursor has its effect, and a cut one raises its kind. -/
theorem decoderStepRunsTheUnit : Obligations.DecoderStepRunsTheUnit := by
  refine ⟨fun s i n hs hin => ⟨fun hpos => ⟨fun hc h => ?_, fun hc h => ?_, fun hc heven h => ?_⟩, fun hc h => ?_⟩,
    fun s hs hin => ⟨fun hpos => ⟨fun hc => ?_, fun hc => ?_, fun hc h0 hodd => ?_⟩, fun hc hend => ?_⟩⟩
  · rw [step_lz77d hs hin hc]
    exact decoderIter_of_ok hs hc nofun hpos h
  · rw [step_lz78d hs hin hc]
    exact decoderIter_of_ok hs hc nofun hpos h
  · rw [step_lzwd hs hin hc, lzwdIter_of_inside hpos heven]
    exact decoderIter_of_ok hs hc nofun hpos h
  · rw [step_vdec hs hin hc]
    exact vdecIter_of_ok hs hc h
  · have hraise {e : DecodeError} (h : decode .lz77tok (s.inFrom s.work.pos) = .error e) :
        StepRaises (errorKind e) s :=
      stepRaises_of_step (by rw [step_lz77d hs hin hc, decoderIter_of_error hpos h]) (by rw [hc]; rfl) (by rw [hc]; rfl)
    exact ⟨hraise, hraise, hraise⟩
  · have hraise {e : DecodeError} (h : decode .lz78pair (s.inFrom s.work.pos) = .error e) :
        StepRaises (errorKind e) s :=
      stepRaises_of_step (by rw [step_lz78d hs hin hc, decoderIter_of_error hpos h]) (by rw [hc]; rfl) (by rw [hc]; rfl)
    exact ⟨hraise, hraise⟩
  · exact stepRaises_of_step (by rw [step_lzwd hs hin hc, lzwdIter_of_odd h0 hodd]) (by rw [hc]; rfl) (by rw [hc]; rfl)
  · exact ⟨_, by rw [step_vdec hs hin hc, vdecIter_of_end hend], raise_cmd _ s, raise_status _ s, raise_kind _ s,
      raise_keepsHostSide _ s, raise_keepsOut _ s (by rw [hc]; rfl)⟩

/-! ### The reset state (R52) -/

/-- Settles O54: `State.resetFrom` writes R52's values. -/
theorem resetValues : Obligations.ResetValues := fun _ => ⟨rfl, rfl, rfl, rfl, rfl, rfl, rfl, rfl⟩

/-- R8 admits the parameters of log entry 2. -/
theorem params_wf : Config.params.wf := by
  have hcap : Config.params.capOk (some 4294967295) := ⟨nofun, fun c hc => by cases hc; exact ⟨by decide, rfl⟩⟩
  exact ⟨hcap, hcap, Nat.mod_mod _ _, rfl⟩

/-- Settles O56: the reset state of every admitted implementation meets the invariant, and `State.reset` is one. -/
theorem resetMeetsInvariant : Obligations.ResetMeetsInvariant :=
  ⟨fun _ hp => inv_resetFrom hp 0, inv_resetFrom params_wf 0⟩

end Sys2Proof.Machine
end

section
/-! SUPPORT. Proofs: a command leaves `BUSY`, and its one transition is a run of the machine's steps (O46). -/

namespace Sys2Proof.Machine

/-! ### A running command moves its cursor (R171, R178, R201, R209, R231) -/

/-- Every decoded unit takes at least one byte (R106). -/
theorem decode_size_pos {f : Format} {bs : List Byte} {i : Instr} {n : Nat} (h : decode f bs = .ok i n) : 0 < n := by
  cases f with
  | cmd8 | varint => cases bs <;> cases h; exact Nat.one_pos
  | lz77tok =>
    change decodeToken bs = _ at h
    unfold decodeToken at h
    repeat' split at h
    all_goals cases h
    all_goals exact Nat.succ_pos _
  | lz78pair =>
    change decodePair bs = _ at h
    unfold decodePair at h
    repeat' split at h
    all_goals cases h
    all_goals exact Nat.succ_pos _
  | lzwcode =>
    obtain ⟨-, rfl, -⟩ := decodeCode_ok h
    exact Nat.two_pos

/-- A stream unit after which its command runs on leaves both cursors where the fetch has put them (R132, R180). -/
theorem unitEffect_cursors {i : Instr} {s : State} (hs : s.status = .busy) (hc : s.cmd ∈ consumers i)
    (hb : (unitEffect i s).status = .busy) :
    (unitEffect i s).work.pos = s.work.pos ∧ (unitEffect i s).work.vOff = s.work.vOff := by
  have ht := exec_unit_of_running hs hc
  obtain ⟨hvarint, hnolit, hlit, hreserved, hpair, hcode⟩ := unitsKeepOtherWorkingRegisters s _ hb
  cases i with
  | venc | vdec | matcher | lz77c | lz77d | lz78c | lz78d | lzwc | lzwd | clr | illegal => cases hc
  | varintCont g => rw [hvarint g (.inl ht)]; exact ⟨rfl, rfl⟩
  | varintLast g => rw [hvarint g (.inr ht)]; exact ⟨rfl, rfl⟩
  | lz77tokNolit d l => rw [hnolit d l ht]; exact ⟨rfl, rfl⟩
  | lz77tokLit d l c => rw [hlit d l c ht]; exact ⟨rfl, rfl⟩
  | lz77tokReserved d l m => exact absurd ht (hreserved d l m)
  | lz78pair index c => rw [hpair index c ht]; exact ⟨rfl, rfl⟩
  | lzwcode k => rw [hcode k ht]; exact ⟨rfl, rfl⟩

/-- `POS` is further on where the command still runs. -/
def PosMoves (s t : State) : Prop := t.status = .busy → s.work.pos < t.work.pos

theorem OutIteration.posMoves {s t : State} (h : OutIteration (fun w => s.work.pos < w.pos) s t) : PosMoves s t :=
  h.work_of_busy

theorem PosMoves.of_not_busy {s t : State} (h : t.status ≠ .busy) : PosMoves s t := fun hb => absurd hb h

theorem PosMoves.raise (k : ErrKind) (s : State) : PosMoves s (raise k s) := .of_not_busy (by simp)

/-- The token that LZ77C forms at `POS` consumes at least one symbol (R173). -/
theorem matchToken_span_pos (s : State) (h : s.work.pos < s.inLen) : 0 < tokenSpan (matchToken s).work := by
  by_cases hin : s.work.pos + (bestMatch s s.work.pos).2 < s.inLen
  · simp [tokenSpan, matchToken, runMatcher, State.symbolAt, hin]
  · have hspan : tokenSpan (matchToken s).work = (bestMatch s s.work.pos).2 := by
      simp [tokenSpan, matchToken, runMatcher, State.symbolAt, hin]
    omega

theorem lz77cIter_posMoves (s : State) : PosMoves s (lz77cIter s) := by
  refine OutIteration.posMoves ?_
  unfold lz77cIter
  split
  · rename_i hpos
    refine .of_setWork (matchToken s).work (.orRaise_emitSeq _ _ _ (.setWork _ ?_))
    rw [State.appendSeq_work]
    exact Nat.lt_add_of_pos_right (matchToken_span_pos s hpos)
  · exact .finish s

theorem lz78cIter_posMoves (s : State) : PosMoves s (lz78cIter s) :=
  (lz78cIter_outIteration
    (lz78cByte_outIteration (fun _ => Nat.lt_succ_self _) fun _ => Nat.lt_succ_self _)).posMoves

theorem Work.storeWe_pos (p : Phrase) (w : Work) : (w.storeWe p).pos = w.pos := by
  unfold Work.storeWe
  split <;> rfl

theorem lzwcIter_posMoves (s : State) : PosMoves s (lzwcIter s) :=
  (lzwcIter_outIteration (lzwcByte_outIteration (fun _ => Nat.lt_succ_self _) fun _ =>
    Nat.lt_of_lt_of_eq (Nat.lt_succ_self _) (Work.storeWe_pos _ (s.advance 1).work).symm)).posMoves

/-- A decoder moves past the unit it fetches (R178, R209). -/
theorem decoderIter_posMoves {f : Format} {s : State} (hs : s.status = .busy) (hc : s.cmd = unitCommand f)
    (hf : f ≠ .cmd8) : PosMoves s (decoderIter f s) := by
  unfold decoderIter
  split
  · split
    · exact .raise _ s
    · rename_i i n hu
      intro hb
      have hcons : (s.advance n).cmd ∈ consumers i := by
        rw [State.advance_cmd, hc]
        exact unitCommand_mem_consumers hf hu
      rw [(unitEffect_cursors (s := s.advance n) hs hcons hb).1]
      exact Nat.lt_add_of_pos_right (decode_size_pos hu)
  · exact .of_not_busy (by simp)

theorem lzwdIter_posMoves {s : State} (hs : s.status = .busy) (hc : s.cmd = 0x09#8) : PosMoves s (lzwdIter s) := by
  have hcode : PosMoves s (decoderIter .lzwcode s) := decoderIter_posMoves hs hc nofun
  unfold lzwdIter
  split
  · split
    · exact .raise _ s
    · split
      · exact .raise _ s
      · exact hcode
  · exact hcode

/-- VDEC goes on past a byte inside the input, and its offset is behind that byte (R132). -/
theorem vdecIter_of_busy {s : State} (hs : s.status = .busy) (hc : s.cmd = 0x02#8)
    (hb : (vdecIter s).status = .busy) : s.work.vOff < s.inLen ∧ (vdecIter s).work.vOff = s.work.vOff + 1 := by
  unfold vdecIter at hb ⊢
  split at hb
  · simp at hb
  · rename_i i n hu
    obtain ⟨hlt, rfl, -⟩ := State.unitAt_varint hu
    have hcons : (s.advanceVarint 1).cmd ∈ consumers i := by
      rw [State.advanceVarint_cmd, hc]
      exact unitCommand_mem_consumers (f := .varint) nofun hu
    exact ⟨hlt, (unitEffect_cursors (s := s.advanceVarint 1) hs hcons hb).2⟩

/-! ### A command ends within its iterations (R174, R261) -/

theorem guardLen_of_busy {iter : State → State} {s : State} (h : (guardLen iter s).status = .busy) :
    guardLen iter s = iter s := by
  unfold guardLen at *
  split
  · simp_all
  · rfl

theorem vencBody_not_busy (s : State) : (vencBody s).status ≠ .busy :=
  (vencBody_outIteration (P := fun _ => False) s).work_of_busy

theorem PosMoves.guardLen {iter : State → State} {s : State} (h : PosMoves s (iter s)) :
    PosMoves s (guardLen iter s) := fun hb => by
  have hiter := guardLen_of_busy hb
  rw [hiter] at hb ⊢
  exact h hb

theorem matchBody_not_busy (s : State) : (matchBody s).status ≠ .busy := by
  unfold matchBody
  split <;> simp

/-- A command that still runs after an iteration has appended to `OUT` and changed its working state. -/
theorem engineIter_extends {s : State} (hb : (engineIter s).status = .busy) : Extends s (engineIter s) := by
  rcases engineIter_cases s with hit | hclr
  · generalize engineIter s = t at hit hb
    cases hit with
    | goesOn h => exact h
    | raises => simp at hb
    | finishes | matched | varint => simp at hb
  · rw [hclr] at hb
    cases hb

theorem cmd_of_toNat {s : State} {n : Nat} (h : s.cmd.toNat = n) : s.cmd = BitVec.ofNat 8 n := by
  rw [← h, BitVec.ofNat_toNat, BitVec.setWidth_eq]

/-- The commands with a stream cursor move it (R34). -/
theorem engineIter_posMoves {s : State} (hs : s.status = .busy) (h4 : 4 ≤ s.cmd.toNat) (h9 : s.cmd.toNat ≤ 9) :
    PosMoves s (engineIter s) := by
  unfold engineIter
  split
  iterate 3 omega
  · exact (lz77cIter_posMoves s).guardLen
  · exact PosMoves.guardLen (decoderIter_posMoves (f := .lz77tok) hs (cmd_of_toNat ‹_›) nofun)
  · exact (lz78cIter_posMoves s).guardLen
  · exact PosMoves.guardLen (decoderIter_posMoves (f := .lz78pair) hs (cmd_of_toNat ‹_›) nofun)
  · exact (lzwcIter_posMoves s).guardLen
  · exact (lzwdIter_posMoves hs (cmd_of_toNat ‹_›)).guardLen
  · omega
  · exact .raise .illegalOperation s

/-- VDEC's iteration takes one byte that is inside the input (R132). -/
theorem engineIter_vdec_of_busy {s : State} (hs : s.status = .busy) (hc : s.cmd = 0x02#8)
    (hb : (engineIter s).status = .busy) : s.work.vOff < s.inLen ∧ (engineIter s).work.vOff = s.work.vOff + 1 := by
  have hguard : engineIter s = guardLen vdecIter s := by rw [engineIter, hc]; rfl
  have hiter := hguard.trans (guardLen_of_busy (hguard ▸ hb))
  rw [hiter] at hb ⊢
  exact vdecIter_of_busy hs hc hb

/-- The one iteration of a command without a loop over `IN` ends it. -/
theorem engineIter_not_busy {s : State} (h2 : s.cmd ≠ 0x02#8) (hstream : ¬ (4 ≤ s.cmd.toNat ∧ s.cmd.toNat ≤ 9)) :
    (engineIter s).status ≠ .busy := by
  unfold engineIter
  split
  · exact vencBody_not_busy s
  · exact absurd (BitVec.eq_of_toNat_eq ‹_›) h2
  · exact fun hb => matchBody_not_busy s (guardLen_of_busy hb ▸ hb)
  iterate 6 omega
  · exact nofun
  · simp

/-- The bytes of `IN` that the command in `CMD` has not taken yet; none for a command without a loop over `IN`. -/
def State.bytesLeft (s : State) : Nat :=
  if s.cmd = 0x02#8 then s.inLen - s.work.vOff
  else if 4 ≤ s.cmd.toNat ∧ s.cmd.toNat ≤ 9 then s.inLen - s.work.pos
  else 0

/-- A stream cursor is inside the input (R34). -/
def State.PosInside (s : State) : Prop := 4 ≤ s.cmd.toNat → s.cmd.toNat ≤ 9 → s.work.pos ≤ s.inLen

/-- An iteration after which the command still runs has taken a byte of the input. -/
theorem engineIter_bytesLeft {s : State} (h : s.PosInside) (hs : s.status = .busy)
    (hb : (engineIter s).status = .busy) :
    (engineIter s).PosInside ∧ (engineIter s).bytesLeft < s.bytesLeft := by
  have hext := engineIter_extends hb
  have hend (h4 : 4 ≤ s.cmd.toNat) (h9 : s.cmd.toNat ≤ 9) : (engineIter s).work.pos ≤ s.inLen :=
    hext.posInside (h h4 h9)
  unfold State.PosInside State.bytesLeft
  rw [hext.cmd, hext.inLen]
  refine ⟨hend, ?_⟩
  split
  · obtain ⟨hlt, hnext⟩ := engineIter_vdec_of_busy hs ‹_› hb
    omega
  · split
    · rename_i hstream
      obtain ⟨h4, h9⟩ := hstream
      have hmoves := engineIter_posMoves hs h4 h9 hb
      have hinside := hend h4 h9
      omega
    · exact absurd hb (engineIter_not_busy ‹_› ‹_›)

theorem start_posInside (op : Byte) (s : State) : (start op s).PosInside := fun h4 h9 => by
  rw [start_cmd] at h4 h9
  exact (startWork_pos s.arg0 s.work h4 h9).trans_le (Nat.zero_le _)

theorem State.bytesLeft_le (s : State) : s.bytesLeft ≤ s.inLen := by
  unfold State.bytesLeft
  split
  · exact Nat.sub_le _ _
  · split
    · exact Nat.sub_le _ _
    · exact Nat.zero_le _

/-- The iterations of a command are more than the bytes it can take (R174, R261). -/
theorem start_bytesLeft {i : Instr} (s : State) (hi : IsIssued i) :
    (start (opcode i) s).bytesLeft < iterations i s.inLen := by
  obtain ⟨hformat, hwf⟩ := hi
  have hle := (start (opcode i) s).bytesLeft_le
  rw [(start_keepsHostSide _ s).inLen] at hle
  cases i with
  | venc | matcher | clr => exact Nat.one_pos
  | illegal op =>
    change ¬ assignedOpcode op at hwf
    have hnone : (start op s).bytesLeft = 0 := by
      unfold State.bytesLeft
      rw [start_cmd, if_neg, if_neg]
      · exact fun hstream => hwf (.inl ⟨by omega, hstream.2⟩)
      · rintro rfl
        exact hwf (by decide)
    exact hnone.trans_lt Nat.one_pos
  | vdec | lz77c | lz77d | lz78c | lz78d | lzwc | lzwd => exact Nat.lt_add_right 1 (Nat.lt_succ_of_le hle)
  | varintCont | varintLast | lz77tokNolit | lz77tokLit | lz77tokReserved | lz78pair | lzwcode => cases hformat

/-- A command leaves `BUSY` within its iterations (R261). -/
theorem runLoop_start_not_busy {i : Instr} (s : State) (hi : IsIssued i) :
    (runLoop engineIter (iterations i s.inLen) (start (opcode i) s)).status ≠ .busy :=
  runLoop_ends State.PosInside State.bytesLeft engineIter (fun _ h hs hb => engineIter_bytesLeft h hs hb) _
    (start_posInside _ s) (start_bytesLeft s hi)

/-! ### The machine's run of a command (R74) -/

theorem step_of_busy {s : State} (h : s.status = .busy) : step s = .next (engineIter s) := if_pos h

/-- A run is the machine's next step, where it answers a state, and then the rest of the run. -/
theorem run_succ_of_step {M : Host.Core} {s t : M.State} (n : Nat) (h : M.step s = .next t) :
    M.run (n + 1) s = M.run n t := by
  rw [Host.Core.run, h]

theorem run_succ_of_busy (n : Nat) {s : State} (h : s.status = .busy) :
    core.run (n + 1) s = core.run n (engineIter s) :=
  run_succ_of_step (M := core) n (step_of_busy h)

/-- A loop of iterations that leaves `BUSY` is a run of the machine, `BUSY` before each of its steps. -/
theorem exists_run_eq_runLoop (k : Nat) {s : State} (h : (runLoop engineIter k s).status ≠ .busy) :
    ∃ n, core.run n s = .next (runLoop engineIter k s) ∧
      ∀ m, m < n → ∃ u : State, core.run m s = .next u ∧ u.status = .busy := by
  induction k generalizing s with
  | zero => exact ⟨0, rfl, fun m hm => absurd hm (Nat.not_lt_zero m)⟩
  | succ k ih =>
    by_cases hs : s.status = .busy
    · rw [runLoop_succ_of_busy _ _ hs] at h ⊢
      obtain ⟨n, hrun, hbefore⟩ := ih h
      refine ⟨n + 1, (run_succ_of_busy n hs).trans hrun, fun m hm => ?_⟩
      cases m with
      | zero => exact ⟨s, rfl, hs⟩
      | succ m =>
        rw [run_succ_of_busy m hs]
        exact hbefore m (Nat.lt_of_succ_lt_succ hm)
    · rw [runLoop_of_not_busy _ _ hs]
      exact ⟨0, rfl, fun m hm => absurd hm (Nat.not_lt_zero m)⟩

/-- Settles O46: the transition is the loop of the command's iterations, which ends and which the machine's steps run. -/
theorem commandIsItsEngineRun : Obligations.CommandIsItsEngineRun := by
  intro i s hi hb
  have hends := runLoop_start_not_busy s hi
  obtain ⟨n, hrun, hbefore⟩ := exists_run_eq_runLoop _ hends
  exact ⟨n, _, exec_eq_runLoop hi hb, hends, hrun, hbefore⟩

end Sys2Proof.Machine
end

section
/-! SUPPORT. Proofs: `IN` and `OUT` under the engine's steps and the host's move, units that do not fit `OUT`, and the
refusals (O39, O43, O50, O51, O52). -/

namespace Sys2Proof.Machine

/-! ### The engine leaves `IN` and only appends to `OUT` (R63, R64) -/

/-- Settles O51: the step is an iteration of the engine, which keeps the host's side. -/
theorem engineNeverWritesIn : Obligations.EngineNeverWritesIn := fun _ hs =>
  ⟨_, step_of_busy hs, (engineIter_keeps hs).hostSide⟩

/-- `OUT_LEN` does not shrink, and no byte of `OUT` changes but those from the old `OUT_LEN` up to the new one. -/
def AppendsOut (s t : State) : Prop :=
  s.outLen ≤ t.outLen ∧ ∀ a, a < s.outLen ∨ t.outLen ≤ a → t.outByte a = s.outByte a

theorem Extends.appendsOut {s u : State} (h : Extends s u) : AppendsOut s u := by
  obtain ⟨bs, w, -, rfl⟩ := h.appends
  have hlen : (s.grown bs w).outLen = s.outLen + bs.length := s.grown_outLen bs w
  exact ⟨hlen.ge.trans' (Nat.le_add_right _ _), fun a ha => s.outByte_grown bs w (hlen ▸ ha)⟩

/-- Success writes no byte of `OUT`, with results or without (R63). -/
theorem Iteration.appendsOut {s t : State} (h : Iteration s t) (ht : t.status ≠ .error) : AppendsOut s t := by
  cases h with
  | goesOn hu | finishes hu | matched hu | varint hu => exact hu.appendsOut
  | raises hu k => exact absurd (raise_status k _) ht

/-- But for CLR, an iteration of the engine is one of a command that works: the second case of `engineIter_cases` is
CLR's alone (R264). -/
theorem engineIter_iteration {s : State} (h : s.cmd ≠ 0x0F#8) : Iteration s (engineIter s) := by
  have hvdec {n : Nat} (hn : s.cmd.toNat = n) (h2 : BitVec.ofNat 8 n ≠ 0x02#8) : s.cmd ≠ 0x02#8 :=
    cmd_of_toNat hn ▸ h2
  unfold engineIter
  split
  · exact vencBody_iteration s
  · exact guardLen_iteration s (vdecIter_iteration s)
  · exact guardLen_iteration s (matchBody_iteration s)
  · exact guardLen_iteration s (lz77cIter_iteration s)
  · exact guardLen_iteration s (decoderIter_iteration _ s (hvdec ‹_› (by decide)))
  · exact guardLen_iteration s (lz78cIter_iteration s)
  · exact guardLen_iteration s (decoderIter_iteration _ s (hvdec ‹_› (by decide)))
  · exact guardLen_iteration s (lzwcIter_iteration s)
  · exact guardLen_iteration s (lzwdIter_iteration s (hvdec ‹_› (by decide)))
  · exact absurd (cmd_of_toNat ‹_›) h
  · exact .raise .illegalOperation s

/-- Settles O52: the step is an iteration of a command that works. -/
theorem outIsAppendOnly : Obligations.OutIsAppendOnly := by
  intro s t hs hc ht herr
  rw [step_of_busy hs] at ht
  cases ht
  exact (engineIter_iteration hc).appendsOut herr

/-! ### The host's move of `OUT` to `IN` (R76, R325) -/

theorem hostMove_copyOutToIn {s : State} (h : s.outLen = 0 ∨ inside s.par.inCap (s.outLen - 1) = true) :
    hostMove .copyOutToIn s = .next (moveOutToIn s) := if_pos h

/-- `IN` after the move: the output, and behind it what stood there. -/
theorem inByte_moveOutToIn (s : State) (a : Nat) :
    (moveOutToIn s).inByte a = if a < s.outLen then s.outByte a else s.inByte a := by
  simp only [State.inByte, moveOutToIn, Mem.get?_setSeq, State.length_output, Nat.zero_le, true_and, Nat.zero_add,
    Nat.sub_zero]
  split
  · simp [State.output, *]
  · rfl

theorem input_moveOutToIn (s : State) : (moveOutToIn s).input = s.output := by
  have hlen : (moveOutToIn s).inLen = s.outLen := rfl
  rw [State.input, State.inFrom, hlen, Nat.sub_zero, ← List.range_eq_range', State.output]
  exact List.map_congr_left fun a ha => by rw [inByte_moveOutToIn, if_pos (List.mem_range.mp ha)]

/-- Settles O50: an output that fits `IN` is inside it up to its last byte, so the move is made. -/
theorem moveMakesOutputTheInput : Obligations.MoveMakesOutputTheInput := by
  intro s rest hb hhost hfits
  have hmove : s.outLen = 0 ∨ inside s.par.inCap (s.outLen - 1) = true := by
    refine or_iff_not_imp_left.mpr fun h0 => (inside_iff _ _).mpr fun c hc => ?_
    have := hfits c hc
    omega
  rw [step_of_host hb hhost]
  exact ⟨_, hostMove_copyOutToIn (s := { s with host := rest }) hmove, input_moveOutToIn _, rfl,
    fun a ha => (inByte_moveOutToIn _ a).trans (if_neg (Nat.not_lt.mpr ha)), ⟨rfl, fun _ => rfl⟩, ⟨rfl, rfl, rfl⟩,
    ⟨rfl, rfl, rfl⟩⟩

/-! ### Where an instruction is refused (log entries 11 and 12) -/

theorem issue_refused_iff (op : Byte) (body : State → State) (s : State) :
    issue op body s = .refused .hostAccessWhileBusy ↔ s.status = .busy := by
  unfold issue
  split <;> simp [*]

theorem asUnit_refused_iff (ops : List Byte) (effect : State → State) (s : State) :
    asUnit ops effect s = .refused .unitOutsideItsDecoder ↔ ¬ (s.status = .busy ∧ s.cmd ∈ ops) := by
  unfold asUnit
  split <;> simp [*]

/-- Settles O43: a command is an `issue`, and a stream unit an `asUnit` with its consumers. -/
theorem refusalsAreExactlyThese : Obligations.RefusalsAreExactlyThese := by
  refine ⟨fun i s hi => ?_, fun i s hi => ?_⟩
  · cases i with
    | venc | vdec | matcher | lz77c | lz77d | lz78c | lz78d | lzwc | lzwd | clr | illegal =>
      exact issue_refused_iff _ _ s
    | varintCont | varintLast | lz77tokNolit | lz77tokLit | lz77tokReserved | lz78pair | lzwcode => cases hi
  · cases i with
    | venc | vdec | matcher | lz77c | lz77d | lz78c | lz78d | lzwc | lzwd | clr | illegal => exact absurd rfl hi
    | varintCont | varintLast | lz77tokNolit | lz77tokLit | lz77tokReserved | lz78pair | lzwcode =>
      exact asUnit_refused_iff _ _ s

/-! ### A unit whose bytes do not fit (R65, R187, R291) -/

theorem orRaise_of_overflowsBy {bs : List Byte} {s : State} (go : State → State) (h : s.overflowsBy bs.length) :
    orRaise s (emitSeq bs s) go = raise .overflow s := by
  rcases emitSeq_spec bs s with ⟨-, he⟩ | ⟨hroom, -⟩
  · rw [he, orRaise]
  · exact absurd h hroom

@[simp] theorem length_copiedBytes (count src : Nat) (s : State) : (copiedBytes count src s).length = count := by
  induction count generalizing src s with
  | zero => rfl
  | succ n ih => rw [copiedBytes, List.length_cons, ih]

/-- A token that passes its checks and does not fit: the copy raises, or after it the literal (R182 to R185). -/
theorem applyToken_of_overflowsBy {s : State} (shape : s.work.tDist = 0 ↔ s.work.tLen = 0)
    (known : s.work.tDist ≤ s.outLen) (h : s.overflowsBy (s.work.tLen + s.work.tNext.toList.length)) :
    ∃ u, applyToken s = raise .overflow u := by
  rw [applyToken, if_neg (by simp [shape]), if_neg (Nat.not_lt.mpr known), copyOut_eq_emitSeq]
  rcases emitSeq_spec (copiedBytes s.work.tLen (s.outLen - s.work.tDist) s) s with ⟨-, hcopy⟩ | ⟨hroom, hcopy⟩ <;>
    rw [hcopy]
  · exact ⟨_, rfl⟩
  · rw [orRaise, emitNext_eq_emitSeq]
    refine ⟨_, orRaise_of_overflowsBy _ ?_⟩
    obtain ⟨c, hcap, hle, hlt⟩ := h
    rw [length_copiedBytes] at hroom
    have hcopied : s.outLen + s.work.tLen ≤ c := Nat.le_of_not_lt fun hc => hroom ⟨c, hcap, hle, hc⟩
    refine ⟨c, ?_, ?_, ?_⟩ <;> simp only [State.appendSeq_eq, length_copiedBytes]
    · exact hcap
    · exact hcopied
    · omega

theorem pairEffect_of_overflowsBy {index : Nat} {c : Byte} {p : Phrase} {s : State}
    (known : Dict.get? s.work.dict78d index = some p) (h : s.overflowsBy (p ++ [c]).length) :
    pairEffect index c s = raise .overflow s := by
  rw [pairEffect, known]
  exact orRaise_of_overflowsBy _ h

theorem codeEntry_of_known {k : Nat} {p : Phrase} {s : State} (h : Dict.get? s.work.dictwd k = some p) :
    codeEntry k s = some p := by
  rw [codeEntry, h]

theorem codeEntry_next {k : Nat} {s : State} (h : Dict.get? s.work.dictwd k = none) (hk : k = s.work.nextCode) :
    codeEntry k s = some (s.work.prev ++ s.work.prev.take 1) := by
  rw [codeEntry, h]
  exact if_pos hk

theorem laterCode_of_overflowsBy {k : Nat} {e : Phrase} {s : State} (entry : codeEntry k s = some e)
    (h : s.overflowsBy e.length) : laterCode k s = raise .overflow s := by
  rw [laterCode, entry]
  exact orRaise_of_overflowsBy _ h

theorem codeEffect_of_known_overflowsBy {k : CodeWord} {p : Phrase} {s : State}
    (known : Dict.get? s.work.dictwd k.toNat = some p) (h : s.overflowsBy p.length) :
    codeEffect k s = raise .overflow s := by
  unfold codeEffect
  split
  · rw [firstCode, known]
    exact orRaise_of_overflowsBy _ h
  · exact laterCode_of_overflowsBy (codeEntry_of_known known) h

/-- The decoders that write `OUT` own it: every consumer of a unit but VDEC (R28, R287). -/
theorem ownsOut_of_mem_consumers {i : Instr} {op : Byte} (h : op ∈ consumers i) (h2 : op ≠ 0x02#8) :
    ownsOut op = true := by
  have hop : op = 0x05#8 ∨ op = 0x07#8 ∨ op = 0x09#8 := by
    cases i <;> simp only [consumers, List.mem_cons, List.not_mem_nil, or_false] at h <;> tauto
  rcases hop with rfl | rfl | rfl <;> rfl

/-- A unit whose effect is an error completion withdraws the output of its decoder (R187, R287). -/
theorem unitRaises_of_raise {i : Instr} {op : Byte} {k : ErrKind} {s u : State} (hr : s.running op)
    (hi : op ∈ consumers i) (h2 : op ≠ 0x02#8) (h : unitEffect i s = raise k u) : UnitRaises i k s := by
  obtain ⟨hs, rfl⟩ := hr
  have hkeeps := (unitEffect_keeps hs hi).1
  have hresults := hkeeps.results (ownsResults_of_mem_consumers hi h2)
  have hcmd : u.cmd = s.cmd := by rw [← hkeeps.cmd, h, raise_cmd]
  refine ⟨_, exec_unit_of_running hs hi, hkeeps.cmd, ?_, ?_, ?_, hkeeps.hostSide, hresults⟩ <;> rw [h]
  · exact raise_status k u
  · exact raise_kind k u
  · rw [raise_outLen, hcmd, if_pos (ownsOut_of_mem_consumers hi h2)]

/-- Settles O39: past its checks each unit appends its bytes, which do not fit. -/
theorem unitBeyondCapacityOverflows : Obligations.UnitBeyondCapacityOverflows := by
  intro s cap hcap hle
  have hover {n : Nat} (h : cap < s.outLen + n) : s.overflowsBy n := ⟨cap, hcap, hle, h⟩
  refine ⟨fun d l hr shape known => ⟨fun h => ?_, fun c h => ?_⟩, fun index c p hr known h => ?_,
    fun k p hr known h => ?_, fun k hr hpos hnone hnext h => ?_⟩
  · obtain ⟨u, hu⟩ := applyToken_of_overflowsBy (s := s.setToken d l none) shape known (hover h)
    exact unitRaises_of_raise hr List.mem_cons_self (by decide) hu
  · obtain ⟨u, hu⟩ := applyToken_of_overflowsBy (s := s.setToken d l (some c)) shape known (hover h)
    exact unitRaises_of_raise hr List.mem_cons_self (by decide) hu
  · have hbytes : s.overflowsBy (p ++ [c]).length := hover (by simpa [Nat.add_assoc] using h)
    exact unitRaises_of_raise hr List.mem_cons_self (by decide) (pairEffect_of_overflowsBy known hbytes)
  · exact unitRaises_of_raise hr List.mem_cons_self (by decide) (codeEffect_of_known_overflowsBy known (hover h))
  · have hlater := laterCode_of_overflowsBy (codeEntry_next hnone hnext) (hover h)
    exact unitRaises_of_raise hr List.mem_cons_self (by decide) ((if_neg hpos).trans hlater)

end Sys2Proof.Machine
end

section
/-! SUPPORT. Proofs: the byte sequences that are one whole unit of a format, from which the decoder's round trip and the
self-delimiting units follow (O1, O2, O3, O4, O7). -/

namespace Sys2Proof

/-! ### The bytes of one varint (R94, R95) -/

/-- `p` is one whole varint of the value `v`: bytes with bit 7 set and a last one with bit 7 clear. -/
inductive IsVarint : List Byte → Nat → Prop
  | last {x : Byte} (h : contBit x = false) : IsVarint [x] (payload x).toNat
  | cont {x : Byte} {p : List Byte} {v : Nat} (h : contBit x = true) (hp : IsVarint p v) :
      IsVarint (x :: p) ((payload x).toNat + 128 * v)

/-- The decoder reads a whole varint whatever follows it (R97). -/
theorem IsVarint.decode_append {p : List Byte} {v : Nat} (h : IsVarint p v) (rest : List Byte) :
    decodeVarint (p ++ rest) = some (v, p.length) := by
  induction h with
  | last h => simp [decodeVarint, h]
  | cont h _ ih => simp [decodeVarint, h, ih]

/-- What the decoder reads as a varint is a whole one at the head of the bytes (R97). -/
theorem exists_isVarint_of_decode {bs : List Byte} {v k : Nat} (h : decodeVarint bs = some (v, k)) :
    ∃ p rest, bs = p ++ rest ∧ k = p.length ∧ IsVarint p v := by
  induction bs generalizing v k with
  | nil => cases h
  | cons x xs ih =>
    unfold decodeVarint at h
    split at h
    case isTrue hx =>
      split at h
      · cases h
      · rename_i w m hw
        cases h
        obtain ⟨p, rest, rfl, rfl, hp⟩ := ih hw
        exact ⟨x :: p, rest, rfl, rfl, .cont hx hp⟩
    case isFalse hx =>
      cases h
      exact ⟨[x], xs, rfl, rfl, .last (by simpa using hx)⟩

/-- `VarintEncode` with fuel for every digit of `n` writes one whole varint of that value (R96, R130). -/
theorem isVarint_encodeVarintFuel {fuel n : Nat} (h : n < 128 ^ (fuel + 1)) : IsVarint (encodeVarintFuel fuel n) n := by
  have hlast {n : Nat} (hn : n < 128) : IsVarint [varintByte false (BitVec.ofNat 7 n)] n := by
    simpa [Nat.mod_eq_of_lt hn] using IsVarint.last (contBit_varintByte false (BitVec.ofNat 7 n))
  induction fuel generalizing n with
  | zero => exact hlast h
  | succ fuel ih =>
    unfold encodeVarintFuel
    split
    · have hrest : n / 128 < 128 ^ (fuel + 1) := by rw [Nat.pow_succ] at h; omega
      have hcont := IsVarint.cont (contBit_varintByte true (BitVec.ofNat 7 n)) (ih hrest)
      simpa [Nat.mod_add_div] using hcont
    · exact hlast (by omega)

theorem isVarint_encodeVarint (n : Nat) : IsVarint (encodeVarint n) n :=
  isVarint_encodeVarintFuel (Nat.lt_log2_self.trans_le (Nat.pow_le_pow_left (by decide) _))

/-- The groups of a varint are the digits of its value to the base 128, least significant first (R95). -/
theorem isVarint_digits {xs : List Byte} {y : Byte} (hxs : ∀ x ∈ xs, 128 ≤ x.toNat) (hy : y.toNat < 128) :
    IsVarint (xs ++ [y]) (Nat.ofDigits 128 ((xs ++ [y]).map fun x => x.toNat % 128)) := by
  induction xs with
  | nil => simpa [toNat_payload] using IsVarint.last (x := y) (by simp [contBit, hy])
  | cons x xs ih =>
    obtain ⟨hx, hxs⟩ := List.forall_mem_cons.mp hxs
    simpa [toNat_payload, Nat.ofDigits_cons] using IsVarint.cont (x := x) (by simp [contBit, hx]) (ih hxs)

/-! ### The bytes of one unit (R91 to R106) -/

theorem decodeCommand_of_unassigned {op : Byte} (h : ¬ assignedOpcode op) : decodeCommand op = .illegal op := by
  unfold decodeCommand
  split <;> simp_all [assignedOpcode]

/-- `u` is the bytes of one whole unit of a format, and the instruction it stands for. -/
inductive IsUnit : Format → List Byte → Instr → Prop
  | command (op : Byte) : IsUnit .cmd8 [op] (decodeCommand op)
  | varintByte (x : Byte) : IsUnit .varint [x] (decodeVarintByte x)
  | nolit {p q : List Byte} {dist len : Nat} (hp : IsVarint p dist) (hq : IsVarint q len) :
      IsUnit .lz77tok (p ++ q ++ [0x00#8]) (.lz77tokNolit dist len)
  | lit {p q : List Byte} {dist len : Nat} (hp : IsVarint p dist) (hq : IsVarint q len) (c : Byte) :
      IsUnit .lz77tok (p ++ q ++ [0x01#8, c]) (.lz77tokLit dist len c)
  | reserved {p q : List Byte} {dist len : Nat} {mark : Byte} (hp : IsVarint p dist) (hq : IsVarint q len)
      (hm : 2 ≤ mark.toNat) : IsUnit .lz77tok (p ++ q ++ [mark]) (.lz77tokReserved dist len mark)
  | pair {p : List Byte} {index : Nat} (hp : IsVarint p index) (c : Byte) :
      IsUnit .lz78pair (p ++ [c]) (.lz78pair index c)
  | code (hi lo : Byte) : IsUnit .lzwcode [hi, lo] (.lzwcode (codeOfBytes hi lo))

theorem IsUnit.format_eq {f : Format} {u : List Byte} {i : Instr} (h : IsUnit f u i) : i.format = f := by
  cases h with
  | command op => exact (Machine.isIssued_decodeCommand op).1
  | varintByte x => unfold decodeVarintByte; split <;> rfl
  | nolit | lit | reserved | pair | code => rfl

theorem IsUnit.wellFormed {f : Format} {u : List Byte} {i : Instr} (h : IsUnit f u i) : i.wellFormed := by
  cases h with
  | command op => exact (Machine.isIssued_decodeCommand op).2
  | varintByte x => unfold decodeVarintByte; split <;> trivial
  | reserved hp hq hm => exact hm
  | nolit | lit | pair | code => trivial

/-- The decoder reads a whole unit and takes its bytes, whatever follows (R97, R106). -/
theorem IsUnit.decode_append {f : Format} {u : List Byte} {i : Instr} (h : IsUnit f u i) (rest : List Byte) :
    decode f (u ++ rest) = .ok i u.length := by
  cases h with
  | command | varintByte | code => rfl
  | pair hp c => simp [decode, decodePair, hp.decode_append]
  | nolit hp hq | lit hp hq => simp [decode, decodeToken, hp.decode_append, hq.decode_append, Nat.add_assoc]
  | @reserved p q _ _ mark hp hq hm =>
    have h1 : mark ≠ 0x01#8 := by rintro rfl; contradiction
    have h0 : mark ≠ 0x00#8 := by rintro rfl; contradiction
    simp [decode, decodeToken, hp.decode_append, hq.decode_append, h1, h0, Nat.add_assoc]

theorem exists_isUnit_of_decodeToken {bs : List Byte} {i : Instr} {n : Nat} (h : decodeToken bs = .ok i n) :
    ∃ u rest, bs = u ++ rest ∧ n = u.length ∧ IsUnit .lz77tok u i := by
  unfold decodeToken at h
  split at h
  · cases h
  · rename_i d a hd
    obtain ⟨p, bs, rfl, rfl, hp⟩ := exists_isVarint_of_decode hd
    rw [List.drop_left] at h
    split at h
    · cases h
    · rename_i l b hl
      obtain ⟨q, tail, rfl, rfl, hq⟩ := exists_isVarint_of_decode hl
      rw [List.drop_length_add_append, List.drop_left] at h
      split at h
      · cases h
      · rename_i mark rest
        split at h
        case isTrue hmark =>
          subst hmark
          split at h
          · cases h
          · rename_i c rest
            cases h
            exact ⟨_, rest, by simp, by simp [Nat.add_assoc], .lit hp hq c⟩
        case isFalse h1 =>
          split at h
          case isTrue hmark =>
            subst hmark
            cases h
            exact ⟨_, rest, by simp, by simp [Nat.add_assoc], .nolit hp hq⟩
          case isFalse h0 =>
            cases h
            exact ⟨_, rest, by simp, by simp [Nat.add_assoc], .reserved hp hq (by bv_omega)⟩

theorem exists_isUnit_of_decodePair {bs : List Byte} {i : Instr} {n : Nat} (h : decodePair bs = .ok i n) :
    ∃ u rest, bs = u ++ rest ∧ n = u.length ∧ IsUnit .lz78pair u i := by
  unfold decodePair at h
  split at h
  · cases h
  · rename_i index a hd
    obtain ⟨p, tail, rfl, rfl, hp⟩ := exists_isVarint_of_decode hd
    rw [List.drop_left] at h
    split at h
    · cases h
    · rename_i c rest
      cases h
      exact ⟨p ++ [c], rest, by simp, by simp, .pair hp c⟩

/-- What the decoder reads as a unit is a whole one at the head of the bytes (R106). -/
theorem exists_isUnit_of_decode {f : Format} {bs : List Byte} {i : Instr} {n : Nat} (h : decode f bs = .ok i n) :
    ∃ u rest, bs = u ++ rest ∧ n = u.length ∧ IsUnit f u i := by
  cases f with
  | lz77tok => exact exists_isUnit_of_decodeToken h
  | lz78pair => exact exists_isUnit_of_decodePair h
  | cmd8 =>
    cases bs with
    | nil => cases h
    | cons op rest => cases h; exact ⟨[op], rest, rfl, rfl, .command op⟩
  | varint =>
    cases bs with
    | nil => cases h
    | cons x rest => cases h; exact ⟨[x], rest, rfl, rfl, .varintByte x⟩
  | lzwcode =>
    match bs with
    | [] | [_] => cases h
    | hi :: lo :: rest => cases h; exact ⟨[hi, lo], rest, rfl, rfl, .code hi lo⟩

/-- The encoder writes one whole unit of a well-formed instruction (R91, R94, R98, R101, R103). -/
theorem isUnit_encode {i : Instr} (h : i.wellFormed) : IsUnit i.format (encode i) i := by
  cases i with
  | venc | vdec | matcher | lz77c | lz77d | lz78c | lz78d | lzwc | lzwd | clr => exact .command (opcode _)
  | illegal op =>
    have hop := IsUnit.command op
    rwa [decodeCommand_of_unassigned h] at hop
  | varintCont g =>
    have hbyte := IsUnit.varintByte (varintByte true g)
    rwa [decodeVarintByte, contBit_varintByte, payload_varintByte] at hbyte
  | varintLast g =>
    have hbyte := IsUnit.varintByte (varintByte false g)
    rwa [decodeVarintByte, contBit_varintByte, payload_varintByte] at hbyte
  | lz77tokNolit d l => exact .nolit (isVarint_encodeVarint d) (isVarint_encodeVarint l)
  | lz77tokLit d l c => exact .lit (isVarint_encodeVarint d) (isVarint_encodeVarint l) c
  | lz77tokReserved d l m => exact .reserved (isVarint_encodeVarint d) (isVarint_encodeVarint l) h
  | lz78pair index c => exact .pair (isVarint_encodeVarint index) c
  | lzwcode k =>
    have hcode := IsUnit.code (codeHi k) (codeLo k)
    rwa [codeOfBytes_hi_lo] at hcode

/-! ### The statements about encodings -/

/-- Settles O1: the ten rows of R92. -/
theorem assignedOpcodesSelectTheirCommands : Obligations.AssignedOpcodesSelectTheirCommands :=
  ⟨rfl, rfl, rfl, rfl, rfl, rfl, rfl, rfl, rfl, rfl⟩

/-- Settles O2: the decoder runs on the written-out bytes. -/
theorem writtenOutUnitsDecode : Obligations.WrittenOutUnitsDecode := by
  unfold Obligations.WrittenOutUnitsDecode
  decide

/-- Settles O3: the encoder's bytes are one whole unit. -/
theorem decodeOfEncodeIsIdentity : Obligations.DecodeOfEncodeIsIdentity := fun _ rest h =>
  (isUnit_encode h).decode_append rest

/-- Settles O4: what was read is a whole unit, and the same unit in front of any other bytes. -/
theorem decodedUnitIsSelfDelimiting : Obligations.DecodedUnitIsSelfDelimiting := by
  intro f bs i n h
  have hpos := Machine.decode_size_pos h
  have hsize := Machine.decode_size h
  obtain ⟨u, tail, rfl, rfl, hu⟩ := exists_isUnit_of_decode h
  refine ⟨hu.format_eq, hu.wellFormed, hpos, hsize, fun rest => ?_⟩
  rw [List.take_left]
  exact hu.decode_append rest

/-- Settles O7: the bytes are one whole varint of their digits to the base 128. -/
theorem varintValueIsDigitSum : Obligations.VarintValueIsDigitSum := by
  intro xs rest y hxs hy
  have h := (isVarint_digits hxs hy).decode_append rest
  have hsum : Nat.ofDigits 128 ((xs ++ [y]).map fun x => x.toNat % 128) =
      ((xs ++ [y]).zipIdx.map fun p => (p.1.toNat % 128) * 128 ^ p.2).sum := by
    rw [Nat.ofDigits_eq_sum_mapIdx, List.mapIdx_eq_zipIdx_map, List.zipIdx_map, List.map_map]
    rfl
  rw [List.append_assoc, hsum, List.length_append] at h
  exact h

end Sys2Proof
end

section
/-! SUPPORT. Proofs: commands and tokens at the edges of their encodings: unassigned opcodes, empty buffers and faulty
tokens (O19, O32, O34). -/

namespace Sys2Proof.Machine

/-! ### A token that fails its checks (R182, R183) -/

theorem applyToken_of_faulty {s : State} (h : ¬ (s.work.tDist = 0 ↔ s.work.tLen = 0) ∨ s.outLen < s.work.tDist) :
    applyToken s = raise .corruptStream s := by
  unfold applyToken
  split
  · rfl
  · rename_i hshape
    have hreach : s.outLen < s.work.tDist := h.resolve_left (by simpa using hshape)
    rw [if_pos hreach]

/-- Settles O19: a reserved marker raises by its effect, the other two as tokens that fail their checks. -/
theorem faultyTokensRaiseCorruptStream : Obligations.FaultyTokensRaiseCorruptStream := by
  intro s d l hr
  refine ⟨fun m _ => ?_, fun h => ⟨?_, fun c => ?_⟩⟩
  · exact unitRaises_of_raise hr List.mem_cons_self (by decide) rfl
  · exact unitRaises_of_raise hr List.mem_cons_self (by decide) (applyToken_of_faulty (s := s.setToken d l none) h)
  · exact unitRaises_of_raise hr List.mem_cons_self (by decide) (applyToken_of_faulty (s := s.setToken d l (some c)) h)

/-! ### A command that ends in its first iteration -/

theorem Succeeds.of_finish {i : Instr} {s : State} {P : State → Prop}
    (h : exec i s = .next (finish (start (opcode i) s))) (hP : P (finish (start (opcode i) s))) : Succeeds i s P :=
  ⟨_, h, by simp, by simp, by simp, (start_keepsHostSide _ s).trans (finish_keepsHostSide _), hP⟩

theorem FailsWith.of_raise {i : Instr} {k : ErrKind} {s : State} {P : State → Prop}
    (h : exec i s = .next (raise k (start (opcode i) s))) (hP : P (raise k (start (opcode i) s))) : FailsWith i k s P :=
  ⟨_, h, by simp, by simp, by simp, (start_keepsHostSide _ s).trans (raise_keepsHostSide k _), hP⟩

/-! ### Unassigned opcodes (R93, R263) -/

theorem ownsOut_of_unassigned {op : Byte} (h : ¬ assignedOpcode op) : ownsOut op = false := by
  rw [Bool.eq_false_iff]
  simp only [assignedOpcode, ownsOut, ne_eq, Bool.or_eq_true, Bool.and_eq_true, beq_iff_eq, decide_eq_true_eq] at h ⊢
  omega

theorem ownsResults_of_unassigned {op : Byte} (h : ¬ assignedOpcode op) : ownsResults op = false := by
  rw [Bool.eq_false_iff]
  simp only [assignedOpcode, ownsResults, ne_eq, Bool.or_eq_true, beq_iff_eq] at h ⊢
  omega

/-- Settles O32: the body is one raise, and the opcode owns neither `OUT` nor the results. -/
theorem unassignedOpcodeIsIllegal : Obligations.UnassignedOpcodeIsIllegal := by
  intro op s hop hb
  have hout := ownsOut_of_unassigned hop
  have hres := ownsResults_of_unassigned hop
  refine ⟨decodeCommand_of_unassigned hop, .of_raise (issue_of_not_busy hb) ⟨?_, ?_⟩⟩
  · exact (start_keepsOut s hout).trans (raise_keepsOut _ _ (by simpa [opcode] using hout))
  · exact (start_keepsResults op s).trans (raise_keepsResults _ _ (by simpa [opcode] using hres))

/-! ### The empty buffer (R109) -/

theorem inputOk_of_empty {s : State} (h : s.inLen = 0) : s.inputOk := by
  unfold State.inputOk State.inTooLong
  split <;> simp [h]

/-- On the empty buffer a command whose first iteration ends it is that iteration. -/
theorem issue_runStream_of_empty {op : Byte} {iter : State → State} {s t : State} (hb : s.status ≠ .busy)
    (h0 : s.inLen = 0) (hiter : iter (start op s) = t) (hend : t.status ≠ .busy) :
    issue op (runStream iter) s = .next t := by
  have hlen : (start op s).inLen = 0 := (start_keepsHostSide op s).inLen.trans h0
  rw [issue_of_not_busy hb, runStream, runLoop_succ_of_busy _ _ (start_status op s),
    guardLen_of_ok (inputOk_of_empty hlen), hiter, runLoop_of_not_busy _ _ hend]

section
variable {s : State}

theorem lz77cIter_of_end (h : s.inLen ≤ s.work.pos) : lz77cIter s = finish s := if_neg (Nat.not_lt.mpr h)

theorem decoderIter_of_end (f : Format) (h : s.inLen ≤ s.work.pos) : decoderIter f s = finish s :=
  if_neg (Nat.not_lt.mpr h)

theorem lz78cIter_of_end (h : s.inLen ≤ s.work.pos) (hcur : s.work.cur = []) : lz78cIter s = finish s := by
  rw [lz78cIter, if_neg (Nat.not_lt.mpr h), lz78cFlush, hcur]
  rfl

theorem lzwcIter_of_end (h : s.inLen ≤ s.work.pos) (hcur : s.work.cur = []) : lzwcIter s = finish s := by
  rw [lzwcIter, if_neg (Nat.not_lt.mpr h), lzwcLast, if_pos hcur]

theorem lzwdIter_of_empty (hpos : s.work.pos = 0) (h0 : s.inLen = 0) : lzwdIter s = raise .emptyStream s := by
  rw [lzwdIter, if_pos hpos, if_neg (by rw [h0]; decide), if_pos h0]

end

/-- A command whose first iteration finishes on the empty buffer succeeds there with no output (R109). -/
theorem succeeds_of_empty {i : Instr} {iter : State → State} {s : State} (hb : s.status ≠ .busy) (h0 : s.inLen = 0)
    (hexec : exec i s = issue (opcode i) (runStream iter) s) (hown : ownsOut (opcode i) = true)
    (hiter : iter (start (opcode i) s) = finish (start (opcode i) s)) : Succeeds i s fun t => t.outLen = 0 := by
  have hrun := issue_runStream_of_empty hb h0 hiter (by simp)
  exact .of_finish (hexec.trans hrun) (by simp [start_outLen, hown])

/-- Settles O34: five commands are at their input's end when they start, and LZWD tests for it first. -/
theorem emptyStreamOfEachCodec : Obligations.EmptyStreamOfEachCodec := by
  intro i s hb h0
  have hlen (op : Byte) : (start op s).inLen = 0 := (start_keepsHostSide op s).inLen.trans h0
  have hend (op : Byte) : (start op s).inLen ≤ (start op s).work.pos := by simp [hlen]
  refine ⟨fun hi => ?_, ?_⟩
  · simp only [List.mem_cons, List.not_mem_nil, or_false] at hi
    obtain rfl | rfl | rfl | rfl | rfl := hi
    · exact succeeds_of_empty hb h0 rfl rfl (lz77cIter_of_end (hend _))
    · exact succeeds_of_empty hb h0 rfl rfl (lz78cIter_of_end (hend _) rfl)
    · exact succeeds_of_empty hb h0 rfl rfl (lzwcIter_of_end (hend _) rfl)
    · exact succeeds_of_empty hb h0 rfl rfl (decoderIter_of_end .lz77tok (hend _))
    · exact succeeds_of_empty hb h0 rfl rfl (decoderIter_of_end .lz78pair (hend _))
  · have hiter : lzwdIter (start 0x09#8 s) = raise .emptyStream (start 0x09#8 s) := lzwdIter_of_empty rfl (hlen _)
    exact .of_raise (issue_runStream_of_empty hb h0 hiter (by simp)) (by rw [raise_outLen, start_cmd]; rfl)

end Sys2Proof.Machine
end

section
/-! SUPPORT. Proofs: the varint encoder's recursion and lengths, the prefix law, VENC, VDEC and the bytes VDEC takes
(O5, O6, O8, O9, O10, O11, O40). -/

namespace Sys2Proof

/-! ### The encoder's recursion and its length (R130, R136) -/

theorem encodeVarintFuel_of_lt (fuel : Nat) {n : Nat} (h : n < 128) :
    encodeVarintFuel fuel n = [varintByte false (BitVec.ofNat 7 n)] := by
  cases fuel with
  | zero => rfl
  | succ fuel => simp [encodeVarintFuel, Nat.div_eq_of_lt h]

/-- Fuel for every digit of `n` is enough: more of it changes nothing. -/
theorem encodeVarintFuel_congr {f g n : Nat} (hf : n < 128 ^ (f + 1)) (hg : n < 128 ^ (g + 1)) :
    encodeVarintFuel f n = encodeVarintFuel g n := by
  induction f generalizing g n with
  | zero => rw [encodeVarintFuel_of_lt _ hf, encodeVarintFuel_of_lt _ hf]
  | succ f ih =>
    cases g with
    | zero => rw [encodeVarintFuel_of_lt _ hg, encodeVarintFuel_of_lt _ hg]
    | succ g =>
      have hdiv {m : Nat} (h : n < 128 ^ (m + 1 + 1)) : n / 128 < 128 ^ (m + 1) :=
        Nat.div_lt_of_lt_mul (Nat.pow_succ' ▸ h)
      rw [encodeVarintFuel, encodeVarintFuel, ih (hdiv hf) (hdiv hg)]

theorem lt_pow_log2_succ (n : Nat) : n < 128 ^ (Nat.log2 n + 1) :=
  Nat.lt_log2_self.trans_le (Nat.pow_le_pow_left (by decide) _)

theorem encodeVarint_of_lt {n : Nat} (h : n < 128) : encodeVarint n = [varintByte false (BitVec.ofNat 7 n)] :=
  encodeVarintFuel_of_lt _ h

/-- A number of two digits or more is its lowest group and then the varint of the rest (R130). -/
theorem encodeVarint_of_ge {n : Nat} (h : 128 ≤ n) :
    encodeVarint n = varintByte true (BitVec.ofNat 7 n) :: encodeVarint (n / 128) := by
  have hrest := lt_pow_log2_succ (n / 128)
  have hfuel : n < 128 ^ (Nat.log2 (n / 128) + 1 + 1) := by rw [Nat.pow_succ]; omega
  rw [encodeVarint, encodeVarintFuel_congr (lt_pow_log2_succ n) hfuel, encodeVarintFuel, if_pos (by omega),
    encodeVarint]

theorem varintByte_ofNat (c : Bool) (n : Nat) :
    varintByte c (BitVec.ofNat 7 n) = BitVec.ofNat 8 ((if c then 128 else 0) + n % 128) := by
  rw [varintByte, BitVec.toNat_ofNat]

/-- Settles O5: the encoder's recursion, with each byte's value. -/
theorem varintEncodesSevenBitGroups : Obligations.VarintEncodesSevenBitGroups := by
  intro n
  split
  · rw [encodeVarint_of_ge (by omega), varintByte_ofNat, if_pos rfl]
  · rw [encodeVarint_of_lt (by omega), varintByte_ofNat, if_neg Bool.false_ne_true, Nat.zero_add]

theorem length_encodeVarint_of_lt {n : Nat} (h : n < 128) : (encodeVarint n).length = 1 := by
  rw [encodeVarint_of_lt h, List.length_singleton]

theorem length_encodeVarint_of_ge {n : Nat} (h : 128 ≤ n) :
    (encodeVarint n).length = (encodeVarint (n / 128)).length + 1 := by
  rw [encodeVarint_of_ge h, List.length_cons]

/-- A varint has at most `m + 1` bytes exactly where its value has at most `m + 1` digits to the base 128 (R136). -/
theorem length_encodeVarint_le_iff (m n : Nat) : (encodeVarint n).length ≤ m + 1 ↔ n < 128 ^ (m + 1) := by
  induction m generalizing n with
  | zero =>
    by_cases h : n < 128
    · simp [length_encodeVarint_of_lt h, h]
    · have hpos := encodeVarint_length_pos (n / 128)
      rw [length_encodeVarint_of_ge (Nat.not_lt.mp h)]
      omega
  | succ m ih =>
    by_cases h : n < 128
    · have hpow : 128 ≤ 128 ^ (m + 1 + 1) := Nat.le_self_pow (Nat.succ_ne_zero _) 128
      rw [length_encodeVarint_of_lt h]
      omega
    · rw [length_encodeVarint_of_ge (Nat.not_lt.mp h), Nat.add_le_add_iff_right, ih, Nat.div_lt_iff_lt_mul (by decide),
        ← Nat.pow_succ]

/-- Settles O6: one digit, one more digit, and the thresholds by induction on the number of bytes. -/
theorem varintLengthCountsDigits : Obligations.VarintLengthCountsDigits := by
  refine fun n => ⟨fun h => length_encodeVarint_of_lt (by omega), fun h => ?_, fun m hm => ?_⟩
  · rw [length_encodeVarint_of_ge h, Nat.add_comm]
  · obtain ⟨m, rfl⟩ := Nat.exists_eq_add_of_le' hm
    exact length_encodeVarint_le_iff m n

/-! ### The prefix law (R137) -/

/-- Bytes that the decoder takes whole are one whole varint. -/
theorem isVarint_of_decode {p : List Byte} {v : Nat} (h : decodeVarint p = some (v, p.length)) : IsVarint p v := by
  obtain ⟨u, rest, rfl, hlen, hu⟩ := exists_isVarint_of_decode h
  have hrest : rest = [] := List.length_eq_zero_iff.mp (by rw [List.length_append] at hlen; omega)
  rwa [hrest, List.append_nil]

/-- Settles O8: at the head of the longer varint the decoder takes the shorter one alone. -/
theorem varintsArePrefixFree : Obligations.VarintsArePrefixFree := by
  rintro p q v w hp hq ⟨rest, rfl⟩
  rw [(isVarint_of_decode hp).decode_append rest] at hq
  cases hrest : rest with
  | nil => rw [List.append_nil]
  | cons x xs => simp [hrest] at hq

/-- Bytes that hold no terminated varint all have the continuation bit (R97). -/
theorem contBit_of_decode_none {bs : List Byte} (h : decodeVarint bs = none) : ∀ x ∈ bs, contBit x = true := by
  induction bs with
  | nil => exact nofun
  | cons x xs ih =>
    unfold decodeVarint at h
    split at h
    case isTrue hx =>
      split at h
      case h_1 hxs => exact List.forall_mem_cons.mpr ⟨hx, ih hxs⟩
      case h_2 => cases h
    case isFalse => cases h

end Sys2Proof

namespace Sys2Proof.Machine

/-! ### The frame of a command (R33, R48, R261, R287) -/

/-- A command that writes `OUT` leaves the results. -/
theorem KeepsResults.of_exec {i : Instr} {s t : State} (hi : IsIssued i) (ho : i ∈ outCommands)
    (h : exec i s = .next t) : KeepsResults s t := by
  obtain ⟨-, -, hresults, -⟩ := commandFrame i s t hi h
  exact hresults (.inl ho)

/-- VDEC and MATCH leave `OUT`. -/
theorem KeepsOut.of_exec {i : Instr} {s t : State} (hi : IsIssued i) (ho : i = .vdec ∨ i = .matcher)
    (h : exec i s = .next t) : KeepsOut s t := by
  obtain ⟨-, -, -, hout, -⟩ := commandFrame i s t hi h
  exact hout ho

/-- A command that ends in `DONE`; `CMD` and the host's side are as its frame says. -/
theorem Succeeds.of_exec {i : Instr} {s t : State} {P : State → Prop} (hi : IsIssued i) (h : exec i s = .next t)
    (hd : t.status = .done) (hk : t.kind = none) (hP : P t) : Succeeds i s P := by
  obtain ⟨hcmd, hside, -⟩ := commandFrame i s t hi h
  exact ⟨t, h, hcmd, hd, hk, hside, hP⟩

/-- A command that ends in error completion; `CMD` and the host's side are as its frame says. -/
theorem FailsWith.of_exec {i : Instr} {k : ErrKind} {s u : State} {P : State → Prop} (hi : IsIssued i)
    (h : exec i s = .next (raise k u)) (hP : P (raise k u)) : FailsWith i k s P := by
  obtain ⟨hcmd, hside, -⟩ := commandFrame i s _ hi h
  exact ⟨_, h, hcmd, raise_status k u, raise_kind k u, hside, hP⟩

theorem Succeeds.mono {i : Instr} {s : State} {P Q : State → Prop} (h : Succeeds i s P) (hPQ : ∀ t, P t → Q t) :
    Succeeds i s Q := by
  obtain ⟨t, hexec, hcmd, hd, hk, hside, hP⟩ := h
  exact ⟨t, hexec, hcmd, hd, hk, hside, hPQ t hP⟩

/-! ### VENC (R131) -/

theorem vencBody_of_room {s : State} (h : s.roomFor (s.outLen + (encodeVarint s.arg0).length)) :
    vencBody s = finish (s.appendSeq (encodeVarint s.arg0)) := by
  rw [vencBody, emitSeq_of_room h, orRaise]

theorem vencBody_of_overflowsBy {s : State} (h : s.overflowsBy (encodeVarint s.arg0).length) :
    vencBody s = raise .overflow s := orRaise_of_overflowsBy _ h

/-- Settles O10: VENC starts with `OUT` empty and appends the encoding, which fits or not. -/
theorem vencAppendsTheVarint : Obligations.VencAppendsTheVarint := by
  intro s hb
  have hi : IsIssued .venc := ⟨rfl, trivial⟩
  have hexec : exec .venc s = .next (vencBody (start 0x01#8 s)) := issue_of_not_busy hb
  have hresults := KeepsResults.of_exec hi List.mem_cons_self hexec
  have hside := start_keepsHostSide 0x01#8 s
  have hempty : (start 0x01#8 s).outLen = 0 := start_outLen 0x01#8 s
  refine ⟨fun hroom => ?_, fun c hcap hlt => ?_⟩
  · have hbody := vencBody_of_room (s := start 0x01#8 s)
      (by rwa [State.roomFor, hside.par, hside.arg0, hempty, Nat.zero_add])
    rw [hbody] at hexec hresults
    refine .of_exec hi hexec rfl ?_ ⟨?_, hresults⟩
    · rw [State.appendSeq_eq]
      exact start_kind 0x01#8 s
    · rw [finish_output, State.output_appendSeq, State.output_of_outLen_zero hempty, hside.arg0, List.nil_append]
  · have hbody := vencBody_of_overflowsBy (s := start 0x01#8 s)
      ⟨c, hside.par ▸ hcap, by omega, by rwa [hside.arg0, hempty, Nat.zero_add]⟩
    rw [hbody] at hexec hresults
    exact .of_exec hi hexec ⟨by rw [raise_outLen, start_cmd]; rfl, hresults⟩

/-! ### The varint bytes of VDEC (R132, R133) -/

theorem vdecEnd_of_fits {s : State} (h : s.par.fits s.work.vValue) :
    vdecEnd s = finish { s with res0 := s.work.vValue, res1 := s.work.vOff } := if_pos h

theorem vdecEnd_of_not_fits {s : State} (h : ¬ s.par.fits s.work.vValue) : vdecEnd s = raise .overflow s := if_neg h

theorem lastEffect_of_vdec {s : State} (g : Group) (h : s.cmd = 0x02#8) :
    lastEffect g s = vdecEnd (addGroup g s) := if_pos h

theorem lastEffect_of_not_vdec {s : State} (g : Group) (h : s.cmd ≠ 0x02#8) : lastEffect g s = addGroup g s := if_neg h

/-- A group added leaves everything but the running value and its digit count. -/
theorem addGroup_keeps (g : Group) (s : State) :
    KeepsControl s (addGroup g s) ∧ KeepsHostSide s (addGroup g s) ∧ KeepsOut s (addGroup g s) ∧
      KeepsResults s (addGroup g s) ∧ KeepsDictionaries s (addGroup g s) :=
  ⟨⟨rfl, rfl, rfl⟩, (IterationKeeps.setWork s _).hostSide, ⟨rfl, fun _ => rfl⟩, ⟨rfl, rfl, rfl⟩,
    ⟨rfl, rfl, rfl, rfl, rfl, rfl, rfl⟩⟩

/-- Settles O40: a byte's effect adds its group; the last one in VDEC then ends the command. -/
theorem varintBytesAccumulate : Obligations.VarintBytesAccumulate := by
  intro s g hs
  refine ⟨fun hc => ?_, fun hc => ?_, fun hc => ?_⟩
  · exact ⟨_, exec_unit_of_running (i := .varintCont g) hs hc, rfl, rfl, rfl, rfl, addGroup_keeps g s⟩
  · have h2 : s.cmd ≠ 0x02#8 := fun h => absurd (h ▸ hc) (by decide)
    have hexec := exec_unit_of_running (i := .varintLast g) hs (List.mem_cons_of_mem _ hc)
    rw [unitEffect, lastEffect_of_not_vdec g h2] at hexec
    exact ⟨_, hexec, rfl, rfl, rfl, addGroup_keeps g s⟩
  · rintro v rfl
    have hexec := exec_unit_of_running (i := .varintLast g) hs (hc ▸ List.mem_cons_self)
    have hkeeps := lastEffect_keeps g hs
    have hout : KeepsOut s (lastEffect g s) := hkeeps.out (by rw [hc]; rfl)
    refine ⟨fun hfits => ?_, fun hfits => ?_⟩
    · have hend := (lastEffect_of_vdec g hc).trans (vdecEnd_of_fits hfits)
      refine ⟨_, hexec, ?_, hkeeps.cmd, ?_, ?_, ?_, ?_, hkeeps.hostSide, hout⟩ <;> rw [unitEffect, hend] <;> rfl
    · have hend := (lastEffect_of_vdec g hc).trans (vdecEnd_of_not_fits hfits)
      refine ⟨_, hexec, ?_, ?_, hkeeps.cmd, hkeeps.hostSide, hout⟩ <;> rw [unitEffect, hend] <;> simp

/-! ### The loop of VDEC (R132, R133) -/

/-- One varint byte is taken: its group is added and the offset is behind it (R132). -/
def State.takeGroup (s : State) (x : Byte) : State := addGroup (payload x) (s.advanceVarint 1)

theorem State.inFrom_succ {s : State} {p : Nat} {x : Byte} {xs : List Byte} (h : s.inFrom p = x :: xs) :
    s.inFrom (p + 1) = xs := by
  have hlen := congrArg List.length h
  rw [State.length_inFrom, List.length_cons] at hlen
  have hcount : s.inLen - p = s.inLen - (p + 1) + 1 := by omega
  rw [State.inFrom, hcount, List.range'_succ, List.map_cons, List.cons.injEq] at h
  exact h.2

section
variable {s : State} {x : Byte} {xs : List Byte}

/-- The bytes behind the one that is taken. -/
theorem State.inFrom_takeGroup (h : s.inFrom s.work.vOff = x :: xs) :
    (s.takeGroup x).inFrom (s.takeGroup x).work.vOff = xs := State.inFrom_succ h

theorem vdecIter_of_cont (h : s.inFrom s.work.vOff = x :: xs) (hx : contBit x = true) :
    vdecIter s = s.takeGroup x := by
  rw [vdecIter, State.unitAt, h, decode, decodeVarintByte, if_pos hx]
  rfl

theorem vdecIter_of_last (hc : s.cmd = 0x02#8) (h : s.inFrom s.work.vOff = x :: xs) (hx : contBit x = false) :
    vdecIter s = vdecEnd (s.takeGroup x) := by
  rw [vdecIter, State.unitAt, h, decode, decodeVarintByte, if_neg (by simp [hx])]
  exact lastEffect_of_vdec (s := s.advanceVarint 1) _ hc

/-- An iteration of VDEC on an input that `IN` holds, and then the rest of them (R262). -/
theorem runLoop_vdec_succ (n : Nat) (hs : s.status = .busy) (hin : s.inputOk) :
    runLoop (guardLen vdecIter) (n + 1) s = runLoop (guardLen vdecIter) n (vdecIter s) := by
  rw [runLoop_succ_of_busy _ _ hs, guardLen_of_ok hin]

end

/-- The loop of VDEC at a whole varint takes it and ends the command with its value and the offset behind it. -/
theorem runLoop_vdec_of_isVarint {p rest : List Byte} {v n : Nat} {s : State} (hp : IsVarint p v)
    (hr : s.running 0x02#8) (hin : s.inputOk) (h : s.inFrom s.work.vOff = p ++ rest) (hn : p.length ≤ n) :
    ∃ w : Work, w.vValue = s.work.vValue + v * 128 ^ s.work.vCount ∧ w.vOff = s.work.vOff + p.length ∧
      runLoop (guardLen vdecIter) n s = vdecEnd (s.setWork w) := by
  induction hp generalizing s n with
  | @last x hx =>
    obtain ⟨n, rfl⟩ := Nat.exists_eq_add_of_le' (m := 1) hn
    refine ⟨(s.takeGroup x).work, rfl, rfl, ?_⟩
    rw [runLoop_vdec_succ n hr.1 hin, vdecIter_of_last hr.2 h hx, runLoop_of_not_busy _ _ (vdecEnd_not_busy _)]
    rfl
  | @cont x p v hx hp ih =>
    obtain ⟨n, rfl⟩ := Nat.exists_eq_add_of_le' (Nat.one_le_of_lt hn)
    obtain ⟨w, hvalue, hoff, hloop⟩ :=
      ih (s := s.takeGroup x) hr hin (State.inFrom_takeGroup h) (Nat.le_of_succ_le_succ hn)
    refine ⟨w, ?_, ?_, ?_⟩
    · have hnext : (s.takeGroup x).work.vValue = s.work.vValue + (payload x).toNat * 128 ^ s.work.vCount := rfl
      have hcount : (s.takeGroup x).work.vCount = s.work.vCount + 1 := rfl
      rw [hvalue, hnext, hcount]
      ring
    · rw [hoff, List.length_cons, Nat.add_comm p.length, ← Nat.add_assoc]
      rfl
    · rw [runLoop_vdec_succ n hr.1 hin, vdecIter_of_cont h hx, hloop]
      rfl

/-- The loop of VDEC at bytes that all have the continuation bit runs into the end of the buffer (R132). -/
theorem runLoop_vdec_of_unterminated {bs : List Byte} {n : Nat} {s : State} (hbs : ∀ x ∈ bs, contBit x = true)
    (hr : s.running 0x02#8) (hin : s.inputOk) (h : s.inFrom s.work.vOff = bs) (hn : bs.length < n) :
    ∃ u, runLoop (guardLen vdecIter) n s = raise .malformedInput u := by
  induction bs generalizing s n with
  | nil =>
    obtain ⟨n, rfl⟩ := Nat.exists_eq_add_of_le' (Nat.one_le_of_lt hn)
    have hend : s.inLen ≤ s.work.vOff := Nat.le_of_sub_eq_zero (by rw [← State.length_inFrom, h]; rfl)
    rw [runLoop_vdec_succ n hr.1 hin, vdecIter_of_end hend, runLoop_of_not_busy _ _ (by simp)]
    exact ⟨s, rfl⟩
  | cons x xs ih =>
    obtain ⟨n, rfl⟩ := Nat.exists_eq_add_of_le' (Nat.one_le_of_lt hn)
    obtain ⟨hx, hxs⟩ := List.forall_mem_cons.mp hbs
    rw [runLoop_vdec_succ n hr.1 hin, vdecIter_of_cont h hx]
    exact ih (s := s.takeGroup x) hxs hr hin (State.inFrom_takeGroup h) (Nat.lt_of_succ_lt_succ hn)

/-! ### The VDEC command (R133) -/

section
variable {s : State}

theorem exec_vdec (hb : s.status ≠ .busy) :
    exec .vdec s = .next (runLoop (guardLen vdecIter) (s.inLen + 2) (start 0x02#8 s)) := by
  rw [← (start_keepsHostSide 0x02#8 s).inLen]
  exact issue_of_not_busy hb

theorem start_vdec_inFrom (s : State) :
    (start 0x02#8 s).inFrom (start 0x02#8 s).work.vOff = s.inFrom s.arg0 := rfl

/-- VDEC at a terminated varint reaches its end with the value and the offset behind it. -/
theorem exec_vdec_of_some {v k : Nat} (hb : s.status ≠ .busy) (hin : s.inputOk)
    (h : decodeVarint (s.inFrom s.arg0) = some (v, k)) :
    ∃ w : Work, w.vValue = v ∧ w.vOff = s.arg0 + k ∧ exec .vdec s = .next (vdecEnd ((start 0x02#8 s).setWork w)) := by
  obtain ⟨p, rest, hbs, rfl, hp⟩ := exists_isVarint_of_decode h
  have hsize := (decodeVarint_size h).2
  rw [State.length_inFrom] at hsize
  obtain ⟨w, hvalue, hoff, hloop⟩ := runLoop_vdec_of_isVarint (s := start 0x02#8 s) (n := s.inLen + 2) hp ⟨rfl, rfl⟩
    hin ((start_vdec_inFrom s).trans hbs) (by omega)
  exact ⟨w, by simpa [startWork] using hvalue, hoff, by rw [exec_vdec hb, hloop]⟩

theorem exec_vdec_of_none (hb : s.status ≠ .busy) (hin : s.inputOk) (h : decodeVarint (s.inFrom s.arg0) = none) :
    ∃ u, exec .vdec s = .next (raise .malformedInput u) := by
  obtain ⟨u, hloop⟩ := runLoop_vdec_of_unterminated (s := start 0x02#8 s) (n := s.inLen + 2) (contBit_of_decode_none h)
    ⟨rfl, rfl⟩ hin (start_vdec_inFrom s) (by rw [State.length_inFrom]; omega)
  exact ⟨u, by rw [exec_vdec hb, hloop]⟩

theorem exec_vdec_of_tooLong (hb : s.status ≠ .busy) (h : s.inTooLong = true) :
    exec .vdec s = .next (raise .illegalOperation (start 0x02#8 s)) := by
  have hlong : (start 0x02#8 s).inTooLong = true := h
  rw [exec_vdec hb, runLoop_succ_of_busy _ _ (start_status _ s), guardLen_of_tooLong hlong,
    runLoop_of_not_busy _ _ (by simp)]

end

/-- Settles O11: the length test, the unterminated varint, and VDEC's end with a value that fits or not. -/
theorem vdecReturnsValueAndOffset : Obligations.VdecReturnsValueAndOffset := by
  intro s hb
  have hi : IsIssued .vdec := ⟨rfl, trivial⟩
  have hout {t : State} (h : exec .vdec s = .next t) : KeepsOut s t := .of_exec hi (.inl rfl) h
  refine ⟨fun hlong => ?_, fun hin hnone => ?_, fun v k hin hsome => ?_⟩
  · have hexec := exec_vdec_of_tooLong hb hlong
    exact .of_exec hi hexec (hout hexec)
  · obtain ⟨u, hexec⟩ := exec_vdec_of_none hb hin hnone
    exact .of_exec hi hexec (hout hexec)
  · obtain ⟨w, rfl, hoff, hexec⟩ := exec_vdec_of_some hb hin hsome
    refine ⟨fun hfits => ?_, fun hfits => ?_⟩
    · rw [vdecEnd_of_not_fits (s := (start 0x02#8 s).setWork w) hfits] at hexec
      exact .of_exec hi hexec (hout hexec)
    · rw [vdecEnd_of_fits (s := (start 0x02#8 s).setWork w) hfits] at hexec
      exact .of_exec hi hexec rfl rfl ⟨rfl, hoff, rfl, hout hexec⟩

/-- Settles O9: the encoding is one whole varint of `n`, which VDEC returns. -/
theorem varintRoundTrip : Obligations.VarintRoundTrip := by
  intro s n rest h
  have hdecode := (isVarint_encodeVarint n).decode_append rest
  rw [← h] at hdecode
  refine ⟨hdecode, fun hb hin hfits => ?_⟩
  obtain ⟨-, -, hvdec⟩ := vdecReturnsValueAndOffset s hb
  obtain ⟨-, hdone⟩ := hvdec n _ hin hdecode
  exact (hdone hfits).mono fun t ⟨hres0, hres1, _⟩ => ⟨hres0, hres1⟩

end Sys2Proof.Machine
end

section
/-! SUPPORT. Proofs: the matcher's search returns the nearest longest match (O12, O13). -/

namespace Sys2Proof.Machine

/-! ### The match length at one distance (R152) -/

theorem matchLen_agrees {rd : Nat → Byte} {i d fuel k j : Nat} (hj : k ≤ j) (h : j < matchLen rd i d fuel k) :
    rd (i - d + j) = rd (i + j) := by
  induction fuel generalizing k with
  | zero => exact absurd h (Nat.not_lt.mpr hj)
  | succ n ih =>
    unfold matchLen at h
    split at h
    case isTrue heq =>
      obtain rfl | hlt := Nat.eq_or_lt_of_le hj
      · exact heq
      · exact ih hlt h
    case isFalse => exact absurd h (Nat.not_lt.mpr hj)

theorem matchLen_stops {rd : Nat → Byte} {i d fuel k : Nat} (h : matchLen rd i d fuel k < k + fuel) :
    rd (i - d + matchLen rd i d fuel k) ≠ rd (i + matchLen rd i d fuel k) := by
  induction fuel generalizing k with
  | zero => exact absurd h (Nat.lt_irrefl k)
  | succ n ih =>
    unfold matchLen at h ⊢
    split at h
    case isTrue heq =>
      rw [if_pos heq]
      exact ih (by omega)
    case isFalse hne => rwa [if_neg hne]

/-- R155's `K(d)`, the match length at distance `d` from cursor `i`. -/
def lengthAt (s : State) (i d : Nat) : Nat := matchLen s.inByte i d (s.lookaheadSize i) 0

theorem isMatchLen_lengthAt (s : State) (i d : Nat) : IsMatchLen s i d (lengthAt s i d) := by
  refine ⟨?_, fun j hj => matchLen_agrees (Nat.zero_le j) hj, fun h => matchLen_stops ?_⟩
  · exact (matchLen_le _ _ _ _ _).trans_eq (Nat.zero_add _)
  · rwa [Nat.zero_add]

/-- A match is not longer than another one that stops at a mismatch or at the limit. -/
theorem IsMatchLen.le {s : State} {i d k k' : Nat} (h : IsMatchLen s i d k) (h' : IsMatchLen s i d k') : k ≤ k' := by
  obtain ⟨hlimit, hagrees, -⟩ := h
  obtain ⟨-, -, hstops⟩ := h'
  by_contra hlt
  exact hstops (by omega) (hagrees k' (by omega))

theorem isMatchLen_iff {s : State} {i d k : Nat} : IsMatchLen s i d k ↔ lengthAt s i d = k := by
  refine ⟨fun h => ?_, fun h => h ▸ isMatchLen_lengthAt s i d⟩
  exact Nat.le_antisymm ((isMatchLen_lengthAt s i d).le h) (h.le (isMatchLen_lengthAt s i d))

/-! ### The search over the distances (R155) -/

/-- `best` is the smallest of the distances `1, …, m` with the greatest length, and that length; `(0, 0)` where every
length is 0. It is the invariant of R152's loop, with `K` the length at a distance. -/
structure IsNearestLongest (K : Nat → Nat) (m : Nat) (best : Nat × Nat) : Prop where
  longest : ∀ d, 1 ≤ d → d ≤ m → K d ≤ best.2
  noMatch : best.2 = 0 → best.1 = 0
  candidate : 0 < best.2 → 1 ≤ best.1 ∧ best.1 ≤ m ∧ K best.1 = best.2
  nearest : ∀ d, 1 ≤ d → d < best.1 → K d ≠ best.2

theorem IsNearestLongest.zero (K : Nat → Nat) : IsNearestLongest K 0 (0, 0) where
  longest _ h1 h0 := absurd h1 (Nat.not_lt.mpr h0)
  noMatch _ := rfl
  candidate h := absurd h (Nat.lt_irrefl 0)
  nearest _ _ h := absurd h (Nat.not_lt_zero _)

/-- One more distance: it replaces the best only where its length is strictly greater. -/
theorem IsNearestLongest.succ {K : Nat → Nat} {m : Nat} {best : Nat × Nat} (h : IsNearestLongest K m best) :
    IsNearestLongest K (m + 1) (if best.2 < K (m + 1) then (m + 1, K (m + 1)) else best) := by
  have hold {d : Nat} (h1 : 1 ≤ d) (hd : d < m + 1) : K d ≤ best.2 := h.longest d h1 (Nat.le_of_lt_succ hd)
  split
  case isTrue hlt =>
    refine ⟨fun d h1 hd => ?_, fun h0 => ?_, fun _ => ⟨Nat.le_add_left 1 m, Nat.le_refl _, rfl⟩, fun d h1 hd => ?_⟩
    · obtain rfl | hd := Nat.eq_or_lt_of_le hd
      · exact Nat.le_refl _
      · exact (hold h1 hd).trans (Nat.le_of_lt hlt)
    · exact absurd h0 (Nat.ne_zero_of_lt hlt)
    · exact ((hold h1 hd).trans_lt hlt).ne
  case isFalse hle =>
    refine ⟨fun d h1 hd => ?_, h.noMatch, fun hpos => ?_, h.nearest⟩
    · obtain rfl | hd := Nat.eq_or_lt_of_le hd
      · exact Nat.not_lt.mp hle
      · exact hold h1 hd
    · obtain ⟨h1, hm, hK⟩ := h.candidate hpos
      exact ⟨h1, Nat.le_succ_of_le hm, hK⟩

theorem scanDistances_isNearestLongest {rd : Nat → Byte} {i limit m : Nat} {best : Nat × Nat} (count : Nat)
    (h : IsNearestLongest (fun d => matchLen rd i d limit 0) m best) :
    IsNearestLongest (fun d => matchLen rd i d limit 0) (m + count)
      (scanDistances rd i limit count (m + 1) best) := by
  induction count generalizing m best with
  | zero => exact h
  | succ n ih =>
    rw [← Nat.add_assoc, Nat.add_right_comm]
    exact ih h.succ

theorem bestMatch_isNearestLongest (s : State) (i : Nat) :
    IsNearestLongest (lengthAt s i) (s.windowSize i) (bestMatch s i) := by
  have h := scanDistances_isNearestLongest (rd := s.inByte) (i := i) (limit := s.lookaheadSize i) (s.windowSize i)
    (.zero _)
  rwa [Nat.zero_add] at h

/-- The ascending loop with a strict comparison computes R155's match. -/
theorem bestMatch_isBestMatch (s : State) (i : Nat) : IsBestMatch s i (bestMatch s i).1 (bestMatch s i).2 := by
  have h := bestMatch_isNearestLongest s i
  refine ⟨fun d' k' h1 hd hlen => ?_, h.noMatch, fun hpos => ?_⟩
  · rw [← isMatchLen_iff.mp hlen]
    exact h.longest d' h1 hd
  · obtain ⟨h1, hw, hK⟩ := h.candidate hpos
    exact ⟨h1, hw, isMatchLen_iff.mpr hK, fun d' h1' hlt hlen => h.nearest d' h1' hlt (isMatchLen_iff.mp hlen)⟩

/-! ### The symbol behind the match (R157) -/

theorem State.symbolAt_of_lt {s : State} {j : Nat} (h : j < s.inLen) : s.symbolAt j = some (s.inByte j) := if_pos h

theorem State.symbolAt_eq_none_iff {s : State} {j : Nat} : s.symbolAt j = none ↔ s.inLen ≤ j := by
  simp [State.symbolAt]

theorem State.symbolAt_eq_some {s : State} {j : Nat} {c : Byte} (h : s.symbolAt j = some c) : c = s.inByte j := by
  unfold State.symbolAt at h
  split at h <;> cases h
  rfl

theorem res2Of_symbolAt_of_lt {s : State} {j : Nat} (h : j < s.inLen) :
    (res2Of (s.symbolAt j)).toNat = 256 + (s.inByte j).toNat := by
  have hc := (s.inByte j).isLt
  rw [State.symbolAt_of_lt h, res2Of, BitVec.toNat_ofNat, Nat.mod_eq_of_lt (by omega)]

theorem res2Of_symbolAt_of_le {s : State} {j : Nat} (h : s.inLen ≤ j) : (res2Of (s.symbolAt j)).toNat = 0 := by
  rw [State.symbolAt_eq_none_iff.mpr h]
  rfl

/-- Settles O13: the match's length is at most the lookahead's, so the symbol behind it is inside the input or at its
end; the rest is R155's match. -/
theorem matcherResultInvariants : Obligations.MatcherResultInvariants := by
  intro s i d k hi hbest
  obtain ⟨hw, hl⟩ := bestMatch_le s i
  obtain ⟨hlongest, hnone, hfound⟩ := bestMatch_isBestMatch s i
  rw [hbest] at hw hl hlongest hnone hfound
  have hend : i + k ≤ s.inLen := by
    have hk : k ≤ s.inLen - i := hl.trans (Nat.min_le_right _ _)
    omega
  refine ⟨⟨fun hd => ?_, hnone⟩, fun hd => ⟨hd, hw⟩, hl, fun j hj => ?_, ?_, fun c => State.symbolAt_eq_some,
    fun d' k' h1 hd' hlen => ⟨hlongest d' k' h1 hd' hlen, ?_⟩⟩
  · by_contra hk
    obtain ⟨h1, -⟩ := hfound (Nat.pos_of_ne_zero hk)
    exact absurd hd (Nat.ne_of_gt h1)
  · obtain ⟨-, -, ⟨-, hagrees, -⟩, -⟩ := hfound (Nat.zero_lt_of_lt hj)
    exact hagrees j hj
  · rw [State.symbolAt_eq_none_iff]
    exact ⟨hend.antisymm, fun h => h.ge⟩
  · rintro hlt rfl
    have hk : 0 < k' := Nat.pos_of_ne_zero fun h0 => absurd (hnone h0) (Nat.ne_zero_of_lt hlt)
    obtain ⟨-, -, -, hnearest⟩ := hfound hk
    exact hnearest d' h1 hlt hlen

/-! ### The MATCH command (R153) -/

theorem matchBody_of_le {s : State} (h : s.inLen ≤ s.arg0) : matchBody s = raise .illegalOperation s := if_pos h

theorem matchBody_of_lt {s : State} (h : s.arg0 < s.inLen) :
    matchBody s = finish (matchResults s.arg0 (runMatcher s.arg0 s)) := if_neg (Nat.not_le.mpr h)

section
variable {s : State}

theorem exec_matcher (hb : s.status ≠ .busy) : exec .matcher s = .next (guardLen matchBody (start 0x03#8 s)) :=
  issue_of_not_busy hb

theorem exec_matcher_of_tooLong (hb : s.status ≠ .busy) (h : s.inTooLong = true) :
    exec .matcher s = .next (raise .illegalOperation (start 0x03#8 s)) := by
  rw [exec_matcher hb, guardLen_of_tooLong (s := start 0x03#8 s) h]

theorem exec_matcher_of_le (hb : s.status ≠ .busy) (hin : s.inputOk) (h : s.inLen ≤ s.arg0) :
    exec .matcher s = .next (raise .illegalOperation (start 0x03#8 s)) := by
  rw [exec_matcher hb, guardLen_of_ok (s := start 0x03#8 s) hin, matchBody_of_le (s := start 0x03#8 s) h]

/-- MATCH at a cursor inside the input ends with the search's results in `RES0` to `RES2`. -/
theorem exec_matcher_of_lt (hb : s.status ≠ .busy) (hin : s.inputOk) (h : s.arg0 < s.inLen) :
    exec .matcher s = .next (finish { runMatcher s.arg0 (start 0x03#8 s) with
      res0 := (bestMatch s s.arg0).1, res1 := (bestMatch s s.arg0).2,
      res2 := res2Of (s.symbolAt (s.arg0 + (bestMatch s s.arg0).2)) }) := by
  rw [exec_matcher hb, guardLen_of_ok (s := start 0x03#8 s) hin, matchBody_of_lt (s := start 0x03#8 s) h]
  rfl

end

/-- Settles O12: the length test, the cursor's, and the search's results with the symbol behind the match. -/
theorem matchReturnsNearestLongest : Obligations.MatchReturnsNearestLongest := by
  intro s hb
  have hi : IsIssued .matcher := ⟨rfl, trivial⟩
  have hout {t : State} (h : exec .matcher s = .next t) : KeepsOut s t := .of_exec hi (.inr rfl) h
  refine ⟨fun hlong => ?_, fun hin hcursor => ?_, fun hin hcursor => ?_⟩
  · have hexec := exec_matcher_of_tooLong hb hlong
    exact .of_exec hi hexec (hout hexec)
  · have hexec := exec_matcher_of_le hb hin hcursor
    exact .of_exec hi hexec (hout hexec)
  · have hexec := exec_matcher_of_lt hb hin hcursor
    exact .of_exec hi hexec rfl rfl
      ⟨bestMatch_isBestMatch s s.arg0, res2Of_symbolAt_of_lt, fun hend => res2Of_symbolAt_of_le hend.ge, hout hexec⟩

end Sys2Proof.Machine
end

section
/-! SUPPORT. Proofs: a command that writes `OUT` piece by piece ends with all its pieces there, or in `Overflow`. -/

namespace Sys2Proof.Machine

/-! ### Room for one piece and for the next (R65, R66) -/

theorem State.output_grown (s : State) (bs : List Byte) (w : Work) : (s.grown bs w).output = s.output ++ bs :=
  s.output_appendSeq bs

theorem State.overflowsBy_mono {s : State} {m n : Nat} (hmn : m ≤ n) (h : s.overflowsBy m) : s.overflowsBy n := by
  obtain ⟨c, hcap, hle, hlt⟩ := h
  exact ⟨c, hcap, hle, by omega⟩

theorem State.not_overflowsBy_of_roomFor {s : State} {n : Nat} (h : s.roomFor (s.outLen + n)) : ¬ s.overflowsBy n :=
  fun ⟨c, hcap, _, hlt⟩ => absurd (h c hcap) (Nat.not_le.mpr hlt)

/-- Behind a piece that fits, the next one fits where both together do. -/
theorem State.overflowsBy_append_iff {s : State} {bs : List Byte} (cs : List Byte) (w : Work)
    (h : ¬ s.overflowsBy bs.length) :
    s.overflowsBy (bs ++ cs).length ↔ (s.grown bs w).overflowsBy cs.length := by
  unfold State.overflowsBy
  rw [(KeepsHostSide.grown s bs w).par, State.grown_outLen, List.length_append]
  refine exists_congr fun c => and_congr_right fun hcap => ?_
  have hfits : s.outLen ≤ c → s.outLen + bs.length ≤ c := fun hle => Nat.le_of_not_lt fun hlt => h ⟨c, hcap, hle, hlt⟩
  omega

/-! ### What a running command reads further on (R64, R265) -/

theorem State.inFrom_eq_cons {s : State} {p : Nat} (h : p < s.inLen) : s.inFrom p = s.inByte p :: s.inFrom (p + 1) := by
  have hcount : s.inLen - p = s.inLen - (p + 1) + 1 := by omega
  rw [State.inFrom, hcount, List.range'_succ, List.map_cons, State.inFrom]

theorem State.inFrom_of_end {s : State} {p : Nat} (h : s.inLen ≤ p) : s.inFrom p = [] := by
  rw [State.inFrom, Nat.sub_eq_zero_of_le h, List.range'_zero, List.map_nil]

theorem State.inFrom_add (s : State) (p n : Nat) : s.inFrom (p + n) = (s.inFrom p).drop n := by
  rw [State.inFrom, State.inFrom, ← List.map_drop, List.drop_range', Nat.mul_one, Nat.sub_add_eq]

theorem State.input_eq_map_range (s : State) : s.input = (List.range s.inLen).map s.inByte := by
  rw [State.input, State.inFrom, Nat.sub_zero, List.range_eq_range']

theorem State.inFrom_grown (s : State) (bs : List Byte) (w : Work) (p : Nat) :
    (s.grown bs w).inFrom p = s.inFrom p := by
  have hside := KeepsHostSide.grown s bs w
  rw [State.inFrom, State.inFrom, hside.inLen]
  exact List.map_congr_left fun a _ => hside.inByte a

theorem inputOk_grown {s : State} (h : s.inputOk) (bs : List Byte) (w : Work) : (s.grown bs w).inputOk := by
  have hside := KeepsHostSide.grown s bs w
  unfold State.inputOk State.inTooLong
  rw [hside.par, hside.inLen]
  exact h

theorem State.running.grown {op : Byte} {s : State} (h : s.running op) (bs : List Byte) (w : Work) :
    (s.grown bs w).running op := ⟨(s.grown_status bs w).trans h.1, (s.grown_cmd bs w).trans h.2⟩

theorem SameInputs.grown {s u : State} (h : SameInputs s u) (bs : List Byte) (w : Work) : SameInputs s (u.grown bs w) :=
  h.of_keepsHostSide (.refl s) (.grown u bs w)

theorem SameInputs.inputOk {s u : State} (h : SameInputs s u) (hin : s.inputOk) : u.inputOk := h.inTooLong.trans hin

theorem SameInputs.refl (s : State) : SameInputs s s := ⟨rfl, rfl, rfl, rfl, rfl, fun _ _ => rfl⟩

theorem SameInputs.start (op : Byte) (s : State) : SameInputs s (start op s) :=
  (SameInputs.refl s).of_keepsHostSide (.refl s) (start_keepsHostSide op s)

/-! ### An iteration that writes a piece, and a loop that writes the whole output -/

/-- From `s` to `t` the bytes `bs` are appended and the working state is `w`, or they do not fit and `Overflow` is
raised (R65, R287). -/
structure GoesOnWriting (bs : List Byte) (w : Work) (s t : State) : Prop where
  fits : ¬ s.overflowsBy bs.length → t = s.grown bs w
  overflows : s.overflowsBy bs.length → ∃ u, t = raise .overflow u

/-- From `s` to `t` the bytes `y` are appended and the command succeeds, or they do not fit and `Overflow` is raised
(R65, R261, R287). -/
structure EndsWriting (y : List Byte) (s t : State) : Prop where
  fits : ¬ s.overflowsBy y.length → ∃ w, t = finish (s.grown y w)
  overflows : s.overflowsBy y.length → ∃ u, t = raise .overflow u

theorem GoesOnWriting.of_setWork {bs : List Byte} {v w : Work} {s t : State} (h : GoesOnWriting bs w (s.setWork v) t) :
    GoesOnWriting bs w s t :=
  ⟨fun hfits => (h.fits hfits).trans (s.grown_grown [] w bs v), h.overflows⟩

/-- A piece, and then what the iteration still writes. -/
theorem GoesOnWriting.orRaise_emitSeq {bs cs : List Byte} {w : Work} {s : State} {go : State → State}
    (hgo : GoesOnWriting cs w (s.appendSeq bs) (go (s.appendSeq bs))) :
    GoesOnWriting (bs ++ cs) w s (orRaise s (emitSeq bs s) go) := by
  rcases emitSeq_spec bs s with ⟨hover, herr⟩ | ⟨hfits, hok⟩
  · have hall : s.overflowsBy (bs ++ cs).length := State.overflowsBy_mono (by simp) hover
    rw [herr]
    exact ⟨fun hfits => absurd hall hfits, fun _ => ⟨s, rfl⟩⟩
  · have hiff := State.overflowsBy_append_iff cs s.work hfits
    rw [State.appendSeq_eq_grown] at hok hgo
    rw [hok, orRaise]
    exact ⟨fun hall => (hgo.fits (mt hiff.mpr hall)).trans (s.grown_grown bs w cs s.work),
      fun hall => hgo.overflows (hiff.mp hall)⟩

/-- A piece, and then a new working state. -/
theorem GoesOnWriting.of_emitSeq {bs : List Byte} {w : Work} {s : State} {go : State → State}
    (hgo : go (s.appendSeq bs) = s.grown bs w) : GoesOnWriting bs w s (orRaise s (emitSeq bs s) go) := by
  have hend : GoesOnWriting [] w (s.appendSeq bs) (go (s.appendSeq bs)) :=
    ⟨fun _ => hgo, fun hover => absurd hover (not_overflowsBy_zero _)⟩
  simpa using hend.orRaise_emitSeq

section
variable {iter : State → State} {s : State} (n : Nat)

/-- The iteration that finds nothing left to do ends the loop. -/
theorem EndsWriting.of_finish (hs : s.status = .busy) (h : iter s = finish s) :
    EndsWriting [] s (runLoop iter (n + 1) s) := by
  rw [runLoop_succ_of_busy _ _ hs, h, runLoop_of_not_busy _ _ (by simp)]
  exact ⟨fun _ => ⟨s.work, rfl⟩, fun hover => absurd hover (not_overflowsBy_zero s)⟩

/-- The iteration that writes a piece, and then the loop that writes the rest. -/
theorem EndsWriting.of_goesOn {bs y : List Byte} {w : Work} (hs : s.status = .busy)
    (h : GoesOnWriting bs w s (iter s))
    (hrest : EndsWriting y (s.grown bs w) (runLoop iter n (s.grown bs w))) :
    EndsWriting (bs ++ y) s (runLoop iter (n + 1) s) := by
  rw [runLoop_succ_of_busy _ _ hs]
  by_cases hover : s.overflowsBy bs.length
  · obtain ⟨u, hu⟩ := h.overflows hover
    have hall : s.overflowsBy (bs ++ y).length := State.overflowsBy_mono (by simp) hover
    rw [hu, runLoop_of_not_busy _ _ (by simp)]
    exact ⟨fun hfits => absurd hall hfits, fun _ => ⟨u, rfl⟩⟩
  · rw [h.fits hover]
    refine ⟨fun hfits => ?_, fun hall => hrest.overflows ((State.overflowsBy_append_iff y w hover).mp hall)⟩
    obtain ⟨v, hv⟩ := hrest.fits fun h' => hfits ((State.overflowsBy_append_iff y w hover).mpr h')
    exact ⟨v, by rw [hv, State.grown_grown]⟩

end

/-! ### The command (R28, R261, R287) -/

/-- A command that writes `OUT` from its start to its end writes those bytes where `OUT` has room for them. -/
theorem Writes.of_endsWriting {i : Instr} {s t : State} {y : List Byte} (hi : IsIssued i) (ho : i ∈ outCommands)
    (hexec : exec i s = .next t) (h : EndsWriting y (start (opcode i) s) t) : Writes i s y := by
  have hown := ownsOut_of_mem_outCommands i ho
  have hresults := KeepsResults.of_exec hi ho hexec
  have hpar := (start_keepsHostSide (opcode i) s).par
  have hempty : (start (opcode i) s).outLen = 0 := by rw [start_outLen, if_pos hown]
  refine ⟨fun hroom => ?_, fun c hcap hlt => ?_⟩
  · obtain ⟨w, rfl⟩ := h.fits (State.not_overflowsBy_of_roomFor (by rwa [State.roomFor, hpar, hempty, Nat.zero_add]))
    refine .of_exec hi hexec rfl (by simp) ⟨?_, hresults⟩
    rw [finish_output, State.output_grown, State.output_of_outLen_zero hempty, List.nil_append]
  · obtain ⟨u, rfl⟩ := h.overflows ⟨c, hpar ▸ hcap, by omega, by omega⟩
    obtain ⟨hcmd, -⟩ := commandFrame i s _ hi hexec
    exact .of_exec hi hexec ⟨by rw [raise_outLen, ← raise_cmd .overflow u, hcmd, if_pos hown], hresults⟩

/-- A command that writes `y` where it fits has written it where the command ends `DONE`. -/
theorem Writes.output_of_done {i : Instr} {s t : State} {y : List Byte} (h : Writes i s y) (hexec : exec i s = .next t)
    (hd : t.status = .done) : t.output = y := by
  obtain ⟨hfits, hover⟩ := h
  by_cases hroom : s.roomFor y.length
  · obtain ⟨t', hexec', -, -, -, -, hout, -⟩ := hfits hroom
    cases hexec.symm.trans hexec'
    exact hout
  · simp only [State.roomFor, not_forall, Nat.not_le] at hroom
    obtain ⟨c, hcap, hlt⟩ := hroom
    obtain ⟨t', hexec', -, herr, -⟩ := hover c hcap hlt
    cases hexec.symm.trans hexec'
    rw [hd] at herr
    cases herr

section
variable {op : Byte} {iter : State → State} {s : State}

/-- A command over `IN` is its start and then the loop of its iterations behind the input-length test (R260, R262). -/
theorem issue_runStream_of_not_busy (hb : s.status ≠ .busy) :
    issue op (runStream iter) s = .next (runLoop (guardLen iter) (s.inLen + 2) (start op s)) := by
  rw [issue_of_not_busy hb, runStream, (start_keepsHostSide op s).inLen]

/-- A command over `IN` that ends `DONE` has passed the input-length test (R262). -/
theorem inputOk_of_done {t : State} (h : issue op (runStream iter) s = .next t) (hd : t.status = .done) :
    s.inputOk := by
  obtain ⟨-, rfl⟩ := issue_next h
  have hside := start_keepsHostSide op s
  by_contra hlong
  have hlong' : (start op s).inTooLong = true := by
    simpa [State.inTooLong, hside.par, hside.inLen] using hlong
  rw [runStream, runLoop_succ_of_busy _ _ (start_status op s), guardLen_of_tooLong hlong',
    runLoop_of_not_busy _ _ (by simp), raise_status] at hd
  cases hd

end

end Sys2Proof.Machine
end

section
/-! SUPPORT. Proofs: LZ77C writes the greedy tokens of its input, all literals where there is no window or lookahead
(O14, O15). -/

namespace Sys2Proof.Machine

/-! ### The best match is unique (R155) -/

theorem IsBestMatch.len_le {s : State} {i d k d' k' : Nat} (h : IsBestMatch s i d k) (h' : IsBestMatch s i d' k') :
    k ≤ k' := by
  obtain ⟨-, -, hfound⟩ := h
  obtain ⟨hlongest, -⟩ := h'
  obtain rfl | hk := Nat.eq_zero_or_pos k
  · exact Nat.zero_le k'
  · obtain ⟨h1, hw, hlen, -⟩ := hfound hk
    exact hlongest d k h1 hw hlen

theorem IsBestMatch.dist_le {s : State} {i d d' k : Nat} (h : IsBestMatch s i d k) (h' : IsBestMatch s i d' k) :
    d ≤ d' := by
  obtain ⟨-, hnone, hfound⟩ := h
  obtain ⟨-, -, hfound'⟩ := h'
  obtain rfl | hk := Nat.eq_zero_or_pos k
  · exact (hnone rfl).trans_le (Nat.zero_le d')
  · obtain ⟨-, -, -, hnearest⟩ := hfound hk
    obtain ⟨h1', -, hlen', -⟩ := hfound' hk
    exact Nat.le_of_not_lt fun hlt => hnearest d' h1' hlt hlen'

theorem isBestMatch_iff {s : State} {i d k : Nat} : IsBestMatch s i d k ↔ bestMatch s i = (d, k) := by
  refine ⟨fun h => ?_, fun h => ?_⟩
  · have hbest := bestMatch_isBestMatch s i
    obtain rfl : (bestMatch s i).2 = k := Nat.le_antisymm (hbest.len_le h) (h.len_le hbest)
    exact Prod.ext (Nat.le_antisymm (hbest.dist_le h) (h.dist_le hbest)) rfl
  · have hbest := bestMatch_isBestMatch s i
    rwa [h] at hbest

/-! ### One token of LZ77C (R172, R173) -/

theorem tokenSpan_eq (w : Work) : tokenSpan w = w.tLen + w.tNext.toList.length := by
  unfold tokenSpan
  split <;> simp [*]

/-- One iteration inside the input writes the token of the best match, and the cursor moves past its symbols. -/
theorem lz77cIter_goesOn {s : State} {d k : Nat} {x : Option Byte} (hpos : s.work.pos < s.inLen)
    (hbest : bestMatch s s.work.pos = (d, k)) (hx : s.symbolAt (s.work.pos + k) = x) :
    ∃ w : Work, w.pos = s.work.pos + (k + x.toList.length) ∧
      GoesOnWriting (encodeToken d k x) w s (lz77cIter s) := by
  have hd : (matchToken s).work.tDist = d := congrArg Prod.fst hbest
  have hk : (matchToken s).work.tLen = k := congrArg Prod.snd hbest
  have hnext : (matchToken s).work.tNext = x := by rw [← hx, ← hk]; rfl
  refine ⟨((matchToken s).advance (tokenSpan (matchToken s).work)).work, ?_, ?_⟩
  · rw [← hk, ← hnext, ← tokenSpan_eq]
    rfl
  · rw [lz77cIter, if_pos hpos, emitToken, hd, hk, hnext]
    refine .of_setWork (v := (matchToken s).work) (.of_emitSeq ?_)
    simp only [State.advance, State.appendSeq_work]
    rfl

theorem exec_lz77c {s : State} (hb : s.status ≠ .busy) :
    exec .lz77c s = .next (runLoop (guardLen lz77cIter) (s.inLen + 2) (start 0x04#8 s)) :=
  issue_runStream_of_not_busy hb

/-! ### The greedy stream (R170) -/

theorem exists_greedyTokens {s : State} {i : Nat} (hi : i ≤ s.inLen) : ∃ y, GreedyTokens s i y := by
  induction hm : s.inLen - i using Nat.strong_induction_on generalizing i with
  | _ m ih =>
    obtain rfl | hlt := Nat.eq_or_lt_of_le hi
    · exact ⟨[], .stop⟩
    · have hbest := bestMatch_isBestMatch s i
      have hk : (bestMatch s i).2 ≤ s.inLen - i := (bestMatch_le s i).2.trans (Nat.min_le_right _ _)
      by_cases hmore : i + (bestMatch s i).2 < s.inLen
      · obtain ⟨rest, hrest⟩ := ih _ (by omega) hmore rfl
        exact ⟨_, .token i _ _ rest hlt hbest hmore hrest⟩
      · obtain ⟨rest, hrest⟩ := ih (s.inLen - (i + (bestMatch s i).2)) (by omega) (by omega) rfl
        exact ⟨_, .last i _ _ rest hlt hbest (by omega) hrest⟩

/-- One token of the greedy stream, and then the loop that writes the rest. -/
theorem endsWriting_lz77c_of_token {s u : State} {d k n : Nat} {x : Option Byte} {y : List Byte}
    (hr : u.running 0x04#8) (hsame : SameInputs s u) (hin : s.inputOk) (hpos : u.work.pos < s.inLen)
    (hbest : IsBestMatch s u.work.pos d k) (hx : s.symbolAt (u.work.pos + k) = x)
    (hrest : ∀ u', u'.running 0x04#8 → SameInputs s u' → u'.work.pos = u.work.pos + (k + x.toList.length) →
      EndsWriting y u' (runLoop (guardLen lz77cIter) n u')) :
    EndsWriting (encodeToken d k x ++ y) u (runLoop (guardLen lz77cIter) (n + 1) u) := by
  obtain ⟨w, hw, hiter⟩ := lz77cIter_goesOn (hsame.inLen.symm ▸ hpos)
    ((hsame.bestMatch _).trans (isBestMatch_iff.mp hbest)) ((hsame.symbolAt _).trans hx)
  rw [← guardLen_of_ok (iter := lz77cIter) (hsame.inputOk hin)] at hiter
  exact .of_goesOn n hr.1 hiter (hrest _ (hr.grown _ w) (hsame.grown _ w) hw)

/-- From the cursor on, the loop of LZ77C writes the greedy stream. -/
theorem GreedyTokens.endsWriting {s : State} {i : Nat} {y : List Byte} (h : GreedyTokens s i y) (hin : s.inputOk)
    {u : State} {n : Nat} (hr : u.running 0x04#8) (hsame : SameInputs s u) (hpos : u.work.pos = i)
    (hn : s.inLen - i < n) : EndsWriting y u (runLoop (guardLen lz77cIter) n u) := by
  induction h generalizing u n with
  | stop =>
    obtain ⟨n, rfl⟩ := Nat.exists_eq_add_of_le' (Nat.one_le_of_lt hn)
    refine .of_finish n hr.1 ?_
    rw [guardLen_of_ok (hsame.inputOk hin), lz77cIter_of_end (hsame.inLen.trans hpos.symm).le]
  | token i d k rest inside best more tail ih =>
    subst hpos
    obtain ⟨n, rfl⟩ := Nat.exists_eq_add_of_le' (Nat.one_le_of_lt hn)
    exact endsWriting_lz77c_of_token hr hsame hin inside best (State.symbolAt_of_lt more) fun u' hr' hsame' hpos' =>
      ih hr' hsame' hpos' (by omega)
  | last i d k rest inside best ends tail ih =>
    subst hpos
    obtain ⟨n, rfl⟩ := Nat.exists_eq_add_of_le' (Nat.one_le_of_lt hn)
    exact endsWriting_lz77c_of_token hr hsame hin inside best (State.symbolAt_eq_none_iff.mpr ends.ge)
      fun u' hr' hsame' hpos' => ih hr' hsame' hpos' (by omega)

/-- Settles O14: the best match at each cursor gives a stream, and LZ77C's loop writes any such stream. -/
theorem lz77EncodesGreedyTokens : Obligations.Lz77EncodesGreedyTokens := fun s hb hin =>
  ⟨exists_greedyTokens (Nat.zero_le _), fun _ h =>
    .of_endsWriting ⟨rfl, trivial⟩ (by decide) (exec_lz77c hb)
      (h.endsWriting hin ⟨start_status _ s, start_cmd _ s⟩ (.start _ s) rfl (by omega))⟩

/-! ### Without window or lookahead (R176) -/

/-- The bytes of a literal token (R98, R176). -/
def literalToken (c : Byte) : List Byte := [0x00#8, 0x00#8, 0x01#8, c]

theorem encodeToken_literal (c : Byte) : encodeToken 0 0 (some c) = literalToken c := by
  rw [encodeToken, encodeVarint_of_lt (by decide)]
  rfl

/-- Nothing matches where the window or the lookahead is empty. -/
theorem isBestMatch_of_noView {s : State} (h : s.wsize = 0 ∨ s.lsize = 0) (i : Nat) : IsBestMatch s i 0 0 := by
  obtain ⟨hd, hk⟩ := bestMatch_le s i
  obtain ⟨-, hnone, hfound⟩ := bestMatch_isBestMatch s i
  have hk0 : (bestMatch s i).2 = 0 := by
    by_contra hne
    obtain ⟨h1, -⟩ := hfound (Nat.pos_of_ne_zero hne)
    obtain h0 | h0 := h <;> simp only [State.windowSize, State.lookaheadSize, h0] at hd hk <;> omega
  exact isBestMatch_iff.mpr (Prod.ext (hnone hk0) hk0)

theorem greedyTokens_literals {s : State} (h : s.wsize = 0 ∨ s.lsize = 0) {i : Nat} (hi : i ≤ s.inLen) :
    GreedyTokens s i ((s.inFrom i).flatMap literalToken) := by
  induction hi using Nat.decreasingInduction with
  | self =>
    rw [State.inFrom_of_end (Nat.le_refl _)]
    exact .stop
  | of_succ i hlt ih =>
    rw [State.inFrom_eq_cons hlt, List.flatMap_cons, ← encodeToken_literal]
    exact .token i 0 0 _ hlt (isBestMatch_of_noView h i) hlt ih

/-- Settles O15: the stream of literal tokens is the greedy one, and it has four bytes for each symbol. -/
theorem lz77WithoutWindowIsAllLiterals : Obligations.Lz77WithoutWindowIsAllLiterals := by
  intro s hb hin hview hroom
  have hlen : (s.input.flatMap literalToken).length = 4 * s.inLen := by
    simp [literalToken, List.length_flatMap, Nat.mul_comm]
  obtain ⟨-, hwrites⟩ := lz77EncodesGreedyTokens s hb hin
  obtain ⟨hfits, -⟩ := hwrites _ (greedyTokens_literals hview (Nat.zero_le _))
  refine (hfits (hlen.symm ▸ hroom)).mono fun t ⟨hout, _⟩ => ⟨hout, ?_⟩
  rw [← State.length_output, hout]
  exact hlen

end Sys2Proof.Machine
end

section
/-! SUPPORT. Proofs: the greedy token stream takes at most four bytes a symbol (O60). -/

namespace Sys2Proof

theorem length_encodeVarint_le_self {n : Nat} (h : 0 < n) : (encodeVarint n).length ≤ n := by
  obtain ⟨m, rfl⟩ := Nat.exists_eq_add_of_le' h
  exact (length_encodeVarint_le_iff m _).mpr (Nat.lt_pow_self (by decide))

@[simp] theorem length_encodeVarint_zero : (encodeVarint 0).length = 1 := length_encodeVarint_of_lt (by decide)

end Sys2Proof

namespace Sys2Proof.Machine

/-! ### The bytes of one token against its symbols (R175) -/

section
variable {s : State} {i d k : Nat}

theorem IsBestMatch.dist_le_cursor (h : IsBestMatch s i d k) : d ≤ i := by
  have hd := (bestMatch_le s i).1
  rw [isBestMatch_iff.mp h] at hd
  exact hd.trans (Nat.min_le_right _ _)

theorem IsBestMatch.distBytes_le (m : Nat) (h : IsBestMatch s i d k) (hi : i < 128 ^ (m + 1)) :
    (encodeVarint d).length ≤ m + 1 := (length_encodeVarint_le_iff m d).mpr (h.dist_le_cursor.trans_lt hi)

/-- A token with a literal takes four bytes where nothing matches; the first matched symbol makes up for a longer
distance. -/
theorem IsBestMatch.litBytes_le (h : IsBestMatch s i d k) (hd : (encodeVarint d).length ≤ 5) :
    (encodeVarint d).length + (encodeVarint k).length + 2 ≤ 4 * (k + 1) := by
  obtain ⟨-, hnone, -⟩ := h
  obtain rfl | hk := Nat.eq_zero_or_pos k
  · simp [hnone rfl]
  · have hlen := length_encodeVarint_le_self hk
    omega

/-- A last token without a literal takes `b` bytes too many where its distance has `b` bytes more than two and it
matches one symbol only. -/
theorem lastBytes_le {b : Nat} (hk : 0 < k) (hd : (encodeVarint d).length ≤ 2 + b) :
    (encodeVarint d).length + (encodeVarint k).length + 1 ≤ 4 * k + b := by
  have hlen := length_encodeVarint_le_self hk
  obtain rfl | h2 := Nat.eq_or_lt_of_le hk
  · rw [length_encodeVarint_of_lt (n := 1) (by decide)]
    omega
  · omega

end

theorem GreedyTokens.eq_nil_of_end {s : State} {i : Nat} {y : List Byte} (h : GreedyTokens s i y) (hi : i = s.inLen) :
    y = [] := by
  cases h with
  | stop => rfl
  | token _ _ _ _ inside => exact absurd hi (Nat.ne_of_lt inside)
  | last _ _ _ _ inside => exact absurd hi (Nat.ne_of_lt inside)

/-- The bound on a stream whose distances take at most `2 + b` bytes: `b` bytes more than four a symbol, which only a
last match of one symbol can need. -/
theorem GreedyTokens.length_le {s : State} {b : Nat} (hb : b ≤ 3)
    (hdist : ∀ i d k, i < s.inLen → IsBestMatch s i d k → (encodeVarint d).length ≤ 2 + b) {i : Nat} {y : List Byte}
    (h : GreedyTokens s i y) : y.length ≤ 4 * (s.inLen - i) + b := by
  induction h with
  | stop => exact Nat.zero_le _
  | token i d k rest inside best more tail ih =>
    have hbytes := best.litBytes_le ((hdist i d k inside best).trans (by omega))
    rw [List.length_append, length_encodeToken, Option.isSome_some, if_pos rfl]
    omega
  | last i d k rest inside best ends tail ih =>
    have hbytes := lastBytes_le (d := d) (k := k) (by omega) (hdist i d k inside best)
    rw [tail.eq_nil_of_end ends, List.append_nil, length_encodeToken, if_neg (by simp)]
    omega

/-! ### A match before the distances get long (R155, R175) -/

/-- No more than 256 symbols are pairwise different. -/
theorem cursor_le_of_injOn {f : Nat → Byte} {i : Nat} (h : Set.InjOn f (Set.Iio i)) : i ≤ 256 := by
  have hbytes : Set.MapsTo (fun j => (f j).toNat) (Finset.range i) (Finset.range 256) := fun j _ => by
    simpa using (f j).isLt
  have hdistinct : Set.InjOn (fun j => (f j).toNat) (Finset.range i) := fun j hj j' hj' heq =>
    h (by simpa using hj) (by simpa using hj') (BitVec.eq_of_toNat_eq heq)
  simpa using Finset.card_le_card_of_injOn _ hbytes hdistinct

/-- Where the window reaches back to the start, a symbol without a match is a new one. -/
theorem injOn_succ_of_noMatch {s : State} {i : Nat} (hw : i ≤ s.wsize) (hl : 0 < s.lsize) (hi : i < s.inLen)
    (best : IsBestMatch s i 0 0) (h : Set.InjOn s.inByte (Set.Iio i)) : Set.InjOn s.inByte (Set.Iio (i + 1)) := by
  obtain ⟨hlongest, -⟩ := best
  have hnew : s.inByte i ∉ s.inByte '' Set.Iio i := by
    rintro ⟨j, hj, heq⟩
    have hlen := isMatchLen_lengthAt s i (i - j)
    have hwin : i - j ≤ s.windowSize i := Nat.le_min.mpr ⟨by omega, Nat.sub_le _ _⟩
    have h0 := hlongest (i - j) _ (Nat.sub_pos_of_lt hj) hwin hlen
    obtain ⟨-, -, hstops⟩ := hlen
    rw [Nat.le_zero.mp h0, Nat.add_zero, Nat.add_zero, Nat.sub_sub_self (Nat.le_of_lt hj)] at hstops
    exact hstops (Nat.lt_min.mpr ⟨hl, by omega⟩) heq
  rw [← Order.succ_eq_add_one, Order.Iio_succ_eq_insert]
  exact (Set.injOn_insert (by simp)).mpr ⟨h, hnew⟩

/-- The first match stands within the first 257 symbols, so its distance is short, and it saves what a last match of one
symbol can need. -/
theorem GreedyTokens.length_le_of_distinct {s : State} (hw : 256 ≤ s.wsize) (hl : 0 < s.lsize)
    (hn : s.inLen < 128 ^ 5) {i : Nat} {y : List Byte} (h : GreedyTokens s i y)
    (hinj : Set.InjOn s.inByte (Set.Iio i)) : y.length ≤ 4 * (s.inLen - i) := by
  have hfive : ∀ i d k, i < s.inLen → IsBestMatch s i d k → (encodeVarint d).length ≤ 2 + 3 := fun i d k hi hbest =>
    hbest.distBytes_le 4 (hi.trans hn)
  induction h with
  | stop => exact Nat.zero_le _
  | token i d k rest inside best more tail ih =>
    have hcursor := cursor_le_of_injOn hinj
    have hd := best.distBytes_le 1 (by omega)
    rw [List.length_append, length_encodeToken, Option.isSome_some, if_pos rfl]
    obtain rfl | hk := Nat.eq_zero_or_pos k
    · obtain ⟨-, hnone, -⟩ := id best
      obtain rfl := hnone rfl
      have hrest := ih (injOn_succ_of_noMatch (by omega) hl inside best hinj)
      rw [length_encodeVarint_zero]
      omega
    · have hrest := tail.length_le (Nat.le_refl 3) hfive
      have hlen := length_encodeVarint_le_self hk
      omega
  | last i d k rest inside best ends tail ih =>
    have hcursor := cursor_le_of_injOn hinj
    have hd := best.distBytes_le 1 (by omega)
    have hbytes := lastBytes_le (b := 0) (d := d) (k := k) (by omega) hd
    rw [tail.eq_nil_of_end ends, List.append_nil, length_encodeToken, if_neg (by simp)]
    omega

/-- Settles O60: with a small window or no lookahead every distance is short; otherwise the first match makes up for the
last one. -/
theorem lz77OutputIsAtMostFourBytesASymbol : Obligations.Lz77OutputIsAtMostFourBytesASymbol := by
  intro s y hn h
  by_cases hview : 256 ≤ s.wsize ∧ 0 < s.lsize
  · exact h.length_le_of_distinct hview.1 hview.2 hn (by simp [Set.InjOn])
  · refine h.length_le (b := 0) (by decide) fun i d k _ best => (length_encodeVarint_le_iff 1 d).mpr ?_
    obtain ⟨hd, hk⟩ := bestMatch_le s i
    rw [isBestMatch_iff.mp best] at hd hk
    obtain ⟨-, hnone, -⟩ := best
    have hdw : d ≤ s.wsize := hd.trans (Nat.min_le_left _ _)
    have hkl : k ≤ s.lsize := hk.trans (Nat.min_le_left _ _)
    by_cases hw : 256 ≤ s.wsize
    · rw [hnone (by omega)]
      decide
    · omega

end Sys2Proof.Machine
end

section
/-! SUPPORT. Proofs: LZ77D's copy in closed form, its tokens, the streams it decodes, and the round trip (O16, O17,
O18). -/

namespace Sys2Proof.Machine

/-! ### The copy in closed form (R184) -/

@[simp] theorem length_cyclicCopy (h : List Byte) (d l : Nat) : (cyclicCopy h d l).length = l := by simp [cyclicCopy]

/-- The first byte of the block is copied behind the history, and the block moves on by one. -/
theorem cyclicCopy_succ {h : List Byte} {d : Nat} {x : Byte} (l : Nat) (h1 : 1 ≤ d) (hd : d ≤ h.length)
    (hx : h[h.length - d]? = some x) : cyclicCopy h d (l + 1) = x :: cyclicCopy (h ++ [x]) d l := by
  rw [cyclicCopy, List.range_succ_eq_map, List.map_cons, List.map_map, cyclicCopy]
  refine congrArg₂ _ (by simp [hx]) (List.map_congr_left fun j _ => ?_)
  have hj : j % d < d := Nat.mod_lt j h1
  rw [Function.comp_apply, Nat.succ_eq_add_one, ← Nat.mod_add_mod, List.length_append, List.length_singleton]
  obtain hlast | hinner := Nat.eq_or_lt_of_le (Nat.succ_le_of_lt hj)
  · have hend : h.length + 1 - d + j % d = h.length := by omega
    rw [hend, ← Nat.succ_eq_add_one, hlast]
    simp [hx]
  · have hnext : h.length + 1 - d + j % d = h.length - d + (j % d + 1) := by omega
    rw [hnext, Nat.mod_eq_of_lt hinner, List.getD_append _ _ _ _ (by omega)]

/-- LZ77D's copy, byte by byte, is the block repeated cyclically (R184). -/
theorem copiedBytes_eq_cyclicCopy {d l : Nat} {s : State} (h1 : 0 < l → 1 ≤ d) (hd : d ≤ s.outLen) :
    copiedBytes l (s.outLen - d) s = cyclicCopy s.output d l := by
  induction l generalizing s with
  | zero => rfl
  | succ l ih =>
    have hpos := h1 (Nat.succ_pos l)
    have hnext : s.outLen - d + 1 = (s.append (s.outByte (s.outLen - d))).outLen - d := by
      rw [State.append_outLen]; omega
    have hfirst : s.output[s.output.length - d]? = some (s.outByte (s.outLen - d)) := by
      rw [State.length_output, State.output, List.getElem?_map, List.getElem?_range (by omega), Option.map_some]
    rw [cyclicCopy_succ l hpos (by simpa using hd) hfirst, copiedBytes, hnext,
      ih (fun _ => hpos) (by rw [State.append_outLen]; omega), State.output_append]

/-- Where each symbol of a match agrees with the one `d` before it, the copy is the match (R154, R184). -/
theorem cyclicCopy_of_agrees {f : Nat → Byte} {i d k : Nat} (h1 : 0 < k → 1 ≤ d) (hd : d ≤ i)
    (h : ∀ j, j < k → f (i - d + j) = f (i + j)) :
    cyclicCopy ((List.range i).map f) d k = (List.range' i k).map f := by
  induction k generalizing i with
  | zero => rfl
  | succ k ih =>
    have hpos := h1 (Nat.succ_pos k)
    have hfirst : ((List.range i).map f)[((List.range i).map f).length - d]? = some (f i) := by
      rw [List.length_map, List.length_range, List.getElem?_map, List.getElem?_range (by omega), Option.map_some]
      exact congrArg some (h 0 (Nat.succ_pos k))
    have hrest : ∀ j, j < k → f (i + 1 - d + j) = f (i + 1 + j) := fun j hj => by
      have hnext := h (j + 1) (Nat.succ_lt_succ hj)
      rwa [← Nat.add_assoc, ← Nat.add_assoc, Nat.add_right_comm, Nat.add_right_comm i,
        ← Nat.sub_add_comm hd] at hnext
    rw [cyclicCopy_succ k hpos (by simpa using hd) hfirst, List.range'_succ, List.map_cons,
      ← ih (fun _ => hpos) (Nat.le_succ_of_le hd) hrest, List.range_succ, List.map_append, List.map_singleton]

/-! ### One token of LZ77D (R180, R182 to R185) -/

/-- The token `(dist, len, next)` as an instruction (R98). -/
def tokenInstr (d l : Nat) : Option Byte → Instr
  | none => .lz77tokNolit d l
  | some c => .lz77tokLit d l c

/-- The bytes a token adds to a history: the copy and the literal if there is one (R184, R185). -/
def tokenOutput (history : List Byte) (d l : Nat) (x : Option Byte) : List Byte :=
  cyclicCopy history d l ++ x.toList

theorem unitEffect_tokenInstr (d l : Nat) (x : Option Byte) (s : State) :
    unitEffect (tokenInstr d l x) s = applyToken (s.setToken d l x) := by
  cases x <;> rfl

/-- A token that passes its checks appends the copy and then the literal, or does not fit. -/
theorem applyToken_goesOn {s : State} (shape : s.work.tDist = 0 ↔ s.work.tLen = 0) (known : s.work.tDist ≤ s.outLen) :
    GoesOnWriting (tokenOutput s.output s.work.tDist s.work.tLen s.work.tNext) s.work s (applyToken s) := by
  have hdist : 0 < s.work.tLen → 1 ≤ s.work.tDist := fun hl => by omega
  rw [applyToken, if_neg (by simp [shape]), if_neg (Nat.not_lt.mpr known), copyOut_eq_emitSeq,
    copiedBytes_eq_cyclicCopy hdist known]
  refine .orRaise_emitSeq ?_
  rw [emitNext_eq_emitSeq, State.appendSeq_work]
  exact .of_emitSeq ((State.appendSeq_eq_grown _ _).trans (by rw [State.appendSeq_work]))

/-- A token of the right shape with a known distance. -/
theorem unitEffect_token_goesOn {s : State} {d l : Nat} (x : Option Byte) (shape : d = 0 ↔ l = 0)
    (known : d ≤ s.outLen) :
    GoesOnWriting (tokenOutput s.output d l x) (s.setToken d l x).work s (unitEffect (tokenInstr d l x) s) := by
  rw [unitEffect_tokenInstr]
  exact .of_setWork (v := (s.setToken d l x).work) (applyToken_goesOn (s := s.setToken d l x) shape known)

theorem exec_token {s : State} (d l : Nat) (x : Option Byte) (hr : s.running 0x05#8) :
    exec (tokenInstr d l x) s = .next (unitEffect (tokenInstr d l x) s) :=
  exec_unit_of_running hr.1 (by rw [hr.2]; cases x <;> exact List.mem_cons_self)

/-- A token that passes its checks and fits: the copy and the literal are appended, and nothing else changes but the
token registers. -/
theorem exec_token_of_room {s : State} {d l : Nat} (x : Option Byte) (hr : s.running 0x05#8) (shape : d = 0 ↔ l = 0)
    (known : d ≤ s.outLen) (hroom : s.roomFor (s.outLen + (l + x.toList.length))) :
    ∃ t, exec (tokenInstr d l x) s = .next t ∧ t.output = s.output ++ tokenOutput s.output d l x ∧
      KeepsControl s t ∧ KeepsHostSide s t ∧ KeepsResults s t ∧ KeepsDictionaries s t ∧ t.work.pos = s.work.pos := by
  have hlen : (tokenOutput s.output d l x).length = l + x.toList.length := by simp [tokenOutput]
  have hgrown := (unitEffect_token_goesOn x shape known).fits (State.not_overflowsBy_of_roomFor (hlen ▸ hroom))
  refine ⟨_, exec_token d l x hr, ?_⟩
  rw [hgrown]
  exact ⟨s.output_grown _ _, ⟨s.grown_cmd _ _, s.grown_status _ _, s.grown_kind _ _⟩, .grown s _ _, .grown s _ _,
    ⟨rfl, rfl, rfl, rfl, rfl, rfl, rfl⟩, rfl⟩

/-- Settles O18: both tokens are the one case of an optional literal. -/
theorem tokenCopiesCyclicallyThenAppends : Obligations.TokenCopiesCyclicallyThenAppends := by
  intro s d l hr shape known
  refine ⟨fun hroom => ?_, fun c hroom => ?_⟩
  · have h := exec_token_of_room none hr shape known hroom
    rwa [tokenOutput, Option.toList_none, List.append_nil] at h
  · have h := exec_token_of_room (some c) hr shape known hroom
    rwa [tokenOutput, ← List.append_assoc] at h

/-! ### The streams LZ77D decodes (R177) -/

theorem Lz77Decodes.token {bs history y : List Byte} {d l n : Nat} {x : Option Byte}
    (unit : decodeToken bs = .ok (tokenInstr d l x) n) (shape : d = 0 ↔ l = 0) (known : d ≤ history.length)
    (tail : Lz77Decodes (bs.drop n) (history ++ tokenOutput history d l x) y) : Lz77Decodes bs history y := by
  cases x with
  | none =>
    rw [tokenOutput, Option.toList_none, List.append_nil] at tail
    exact .nolit bs history y d l n unit shape known tail
  | some c =>
    rw [tokenOutput, ← List.append_assoc] at tail
    exact .lit bs history y d l n c unit shape known tail

/-- An iteration of LZ77D at a unit of its stream gives it its effect. -/
theorem lz77dIter_of_ok {s : State} {i : Instr} {n : Nat} (h : decodeToken (s.inFrom s.work.pos) = .ok i n) :
    lz77dIter s = unitEffect i (s.advance n) := by
  have hpos : s.work.pos < s.inLen := by
    by_contra hend
    rw [State.inFrom_of_end (Nat.not_lt.mp hend)] at h
    cases h
  rw [lz77dIter, decoderIter, if_pos hpos, State.unitAt, decode, h]

theorem lz77dIter_goesOn {s : State} {d l n : Nat} {x : Option Byte}
    (unit : decodeToken (s.inFrom s.work.pos) = .ok (tokenInstr d l x) n) (shape : d = 0 ↔ l = 0)
    (known : d ≤ s.outLen) :
    ∃ w : Work, w.pos = s.work.pos + n ∧ GoesOnWriting (tokenOutput s.output d l x) w s (lz77dIter s) := by
  rw [lz77dIter_of_ok unit]
  exact ⟨((s.advance n).setToken d l x).work, rfl,
    .of_setWork (v := (s.advance n).work) (unitEffect_token_goesOn (s := s.advance n) x shape known)⟩

/-- The loop of LZ77D at a token that passes its checks, and then at the rest of the stream. -/
theorem endsWriting_lz77d_of_token {s : State} {d l n m : Nat} {x : Option Byte} {z : List Byte} (hr : s.running 0x05#8)
    (hin : s.inputOk) (unit : decodeToken (s.inFrom s.work.pos) = .ok (tokenInstr d l x) n) (shape : d = 0 ↔ l = 0)
    (known : d ≤ s.outLen)
    (hrest : ∀ s' : State, s'.running 0x05#8 → s'.inputOk → s'.inFrom s'.work.pos = (s.inFrom s.work.pos).drop n →
      s'.output = s.output ++ tokenOutput s.output d l x → EndsWriting z s' (runLoop (guardLen lz77dIter) m s')) :
    EndsWriting (tokenOutput s.output d l x ++ z) s (runLoop (guardLen lz77dIter) (m + 1) s) := by
  obtain ⟨w, hw, hiter⟩ := lz77dIter_goesOn unit shape known
  rw [← guardLen_of_ok (iter := lz77dIter) hin] at hiter
  refine .of_goesOn m hr.1 hiter (hrest _ (hr.grown _ w) (inputOk_grown hin _ w) ?_ (s.output_grown _ w))
  rw [State.inFrom_grown, State.grown_work, hw, State.inFrom_add]

theorem exec_lz77d {s : State} (hb : s.status ≠ .busy) :
    exec .lz77d s = .next (runLoop (guardLen lz77dIter) (s.inLen + 2) (start 0x05#8 s)) :=
  issue_runStream_of_not_busy hb

/-- Whenever LZ77D stands at `bs` with the output `history`, its loop writes `z`. -/
def Lz77dWrites (bs history z : List Byte) : Prop :=
  ∀ (s : State) (m : Nat), s.running 0x05#8 → s.inputOk → s.inFrom s.work.pos = bs → s.output = history →
    bs.length < m → EndsWriting z s (runLoop (guardLen lz77dIter) m s)

theorem Lz77dWrites.stop (history : List Byte) : Lz77dWrites [] history [] := by
  intro s m hr hin hbs _ hm
  obtain ⟨m, rfl⟩ := Nat.exists_eq_add_of_le' (Nat.one_le_of_lt hm)
  have hend : s.inLen ≤ s.work.pos := Nat.le_of_sub_eq_zero (by rw [← State.length_inFrom, hbs]; rfl)
  exact .of_finish m hr.1 ((guardLen_of_ok hin).trans (decoderIter_of_end .lz77tok hend))

theorem Lz77dWrites.token {bs history z : List Byte} {d l n : Nat} {x : Option Byte}
    (unit : decodeToken bs = .ok (tokenInstr d l x) n) (shape : d = 0 ↔ l = 0) (known : d ≤ history.length)
    (tail : Lz77dWrites (bs.drop n) (history ++ tokenOutput history d l x) z) :
    Lz77dWrites bs history (tokenOutput history d l x ++ z) := by
  rintro s m hr hin rfl rfl hm
  obtain ⟨m, rfl⟩ := Nat.exists_eq_add_of_le' (Nat.one_le_of_lt hm)
  have hpos := decode_size_pos (f := .lz77tok) unit
  have hsize := (decodeToken_ok unit).2
  exact endsWriting_lz77d_of_token hr hin unit shape (by simpa using known) fun s' hr' hin' hbs' hout' =>
    tail s' m hr' hin' hbs' hout' (by rw [List.length_drop]; omega)

/-- LZ77D writes what the algorithm adds to the history. -/
theorem Lz77Decodes.writes {bs history y : List Byte} (h : Lz77Decodes bs history y) :
    ∃ z, y = history ++ z ∧ Lz77dWrites bs history z := by
  induction h with
  | stop history => exact ⟨[], (List.append_nil _).symm, .stop history⟩
  | lit bs history y d l n c unit shape known _ ih =>
    obtain ⟨z, rfl, hz⟩ := ih
    rw [List.append_assoc history] at hz ⊢
    exact ⟨_, List.append_assoc _ _ _, .token (x := some c) unit shape known hz⟩
  | nolit bs history y d l n unit shape known _ ih =>
    obtain ⟨z, rfl, hz⟩ := ih
    rw [← List.append_nil (cyclicCopy history d l)] at hz ⊢
    exact ⟨_, List.append_assoc _ _ _, .token (x := none) unit shape known hz⟩

theorem lz77dIter_of_faulty {s : State} {d l n : Nat} {x : Option Byte}
    (unit : decodeToken (s.inFrom s.work.pos) = .ok (tokenInstr d l x) n)
    (h : ¬ ((d = 0 ↔ l = 0) ∧ d ≤ s.outLen)) : ∃ u, lz77dIter s = raise .corruptStream u := by
  have hfaulty : ¬ (d = 0 ↔ l = 0) ∨ s.outLen < d := by rwa [not_and_or, Nat.not_le] at h
  rw [lz77dIter_of_ok unit, unitEffect_tokenInstr]
  exact ⟨_, applyToken_of_faulty (s := (s.advance n).setToken d l x) hfaulty⟩

/-- An iteration of LZ77D ends the command, fails, or stands at a token with marker 0x00 or 0x01. -/
theorem lz77dIter_cases (s : State) :
    (s.inLen ≤ s.work.pos ∧ lz77dIter s = finish s) ∨ (∃ k u, lz77dIter s = raise k u) ∨
      ∃ d l x n, decodeToken (s.inFrom s.work.pos) = .ok (tokenInstr d l x) n := by
  obtain hpos | hend := Nat.lt_or_ge s.work.pos s.inLen
  case inr => exact .inl ⟨hend, decoderIter_of_end .lz77tok hend⟩
  refine .inr ?_
  cases hunit : decodeToken (s.inFrom s.work.pos) with
  | error e => exact .inl ⟨_, _, decoderIter_of_error (f := .lz77tok) hpos hunit⟩
  | ok i n =>
    have hformat := (decodeToken_ok hunit).1
    cases i with
    | lz77tokNolit d l => exact .inr ⟨d, l, none, n, rfl⟩
    | lz77tokLit d l c => exact .inr ⟨d, l, some c, n, rfl⟩
    | lz77tokReserved d l mark => exact .inl ⟨_, _, lz77dIter_of_ok hunit⟩
    | _ => cases hformat

/-- What LZ77D's loop has written where it ends `DONE`, the algorithm decodes. -/
theorem lz77Decodes_of_done {s : State} {m : Nat} (hr : s.running 0x05#8) (hin : s.inputOk)
    (hd : (runLoop (guardLen lz77dIter) m s).status = .done) :
    Lz77Decodes (s.inFrom s.work.pos) s.output (runLoop (guardLen lz77dIter) m s).output := by
  induction m generalizing s with
  | zero => cases hr.1.symm.trans hd
  | succ m ih =>
    have hnotRaised {k : ErrKind} : ¬ ∃ u, lz77dIter s = raise k u := by
      rintro ⟨u, hiter⟩
      rw [runLoop_succ_of_busy _ _ hr.1, guardLen_of_ok hin, hiter, runLoop_of_not_busy _ _ (by simp),
        raise_status] at hd
      cases hd
    rw [runLoop_succ_of_busy _ _ hr.1, guardLen_of_ok hin] at hd ⊢
    obtain ⟨hend, hiter⟩ | ⟨k, hraise⟩ | ⟨d, l, x, n, unit⟩ := lz77dIter_cases s
    · rw [hiter, runLoop_of_not_busy _ _ (by simp), State.inFrom_of_end hend, finish_output]
      exact .stop _
    · exact absurd hraise hnotRaised
    · have hok : (d = 0 ↔ l = 0) ∧ d ≤ s.outLen := by_contra fun h => hnotRaised (lz77dIter_of_faulty unit h)
      obtain ⟨shape, known⟩ := hok
      obtain ⟨w, hw, hfits, hover⟩ := lz77dIter_goesOn unit shape known
      rw [hfits (mt hover hnotRaised)] at hd ⊢
      have htail := ih (hr.grown _ w) (inputOk_grown hin _ w) hd
      rw [State.inFrom_grown, State.grown_work, hw, State.inFrom_add, State.output_grown] at htail
      exact .token unit shape (by simpa using known) htail

/-- Settles O16: LZ77D starts at the head of its input with no output, and its loop goes as the algorithm does. -/
theorem lz77DecodesExactlyTheStreams : Obligations.Lz77DecodesExactlyTheStreams := by
  intro s hb hin
  have hr : (start 0x05#8 s).running 0x05#8 := ⟨start_status _ s, start_cmd _ s⟩
  have hempty : (start 0x05#8 s).output = [] := State.output_of_outLen_zero (start_outLen 0x05#8 s)
  have hexec := exec_lz77d hb
  refine ⟨fun y h => ?_, fun t ht hd => ?_⟩
  · obtain ⟨z, rfl, hwrites⟩ := h.writes
    exact .of_endsWriting ⟨rfl, trivial⟩ (by decide) hexec
      (hwrites _ _ hr hin rfl hempty (by rw [State.length_input]; omega))
  · cases hexec.symm.trans ht
    have hdecodes := lz77Decodes_of_done hr hin hd
    rwa [hempty] at hdecodes

/-! ### The round trip (R189) -/

theorem decodeToken_encodeToken (d l : Nat) (x : Option Byte) (rest : List Byte) :
    decodeToken (encodeToken d l x ++ rest) = .ok (tokenInstr d l x) (encodeToken d l x).length := by
  cases x with
  | none => exact decodeOfEncodeIsIdentity (.lz77tokNolit d l) rest trivial
  | some c => exact decodeOfEncodeIsIdentity (.lz77tokLit d l c) rest trivial

/-- The token of a best match, behind the symbols before the cursor, decodes to the symbols it has consumed (R190). -/
theorem IsBestMatch.decodes {s : State} {i d k : Nat} {x : Option Byte} {rest y : List Byte} (inside : i < s.inLen)
    (best : IsBestMatch s i d k) (tail : Lz77Decodes rest ((List.range (i + k)).map s.inByte ++ x.toList) y) :
    Lz77Decodes (encodeToken d k x ++ rest) ((List.range i).map s.inByte) y := by
  obtain ⟨shape, -, -, hagrees, -⟩ := matcherResultInvariants s i d k inside (isBestMatch_iff.mp best)
  have hcopy := cyclicCopy_of_agrees (k := k) (fun hk => by omega) best.dist_le_cursor hagrees
  refine .token (decodeToken_encodeToken d k x rest) shape (by simpa using best.dist_le_cursor) ?_
  rw [List.drop_left, tokenOutput, hcopy, ← List.append_assoc, ← List.map_append, List.range_eq_range']
  rwa [List.range_eq_range', ← List.range'_append_1, Nat.zero_add] at tail

/-- The greedy stream from a cursor on decodes, behind the symbols before the cursor, to the whole input. -/
theorem GreedyTokens.decodes {s : State} {i : Nat} {y : List Byte} (h : GreedyTokens s i y) :
    Lz77Decodes y ((List.range i).map s.inByte) s.input := by
  induction h with
  | stop => exact s.input_eq_map_range ▸ .stop _
  | token i d k rest inside best more tail ih =>
    refine best.decodes inside ?_
    rwa [List.range_succ, List.map_append] at ih
  | last i d k rest inside best ends tail ih =>
    refine best.decodes inside ?_
    rwa [Option.toList_none, List.append_nil]

/-- Settles O17: a run that ends `DONE` has written the greedy stream, which LZ77D decodes to the original. -/
theorem lz77RoundTrip : Obligations.Lz77RoundTrip := by
  intro s t hb hroom hexec hd hmove
  obtain ⟨⟨y, hy⟩, hwrites⟩ := lz77EncodesGreedyTokens s hb (inputOk_of_done hexec hd)
  have hinput : (moveOutToIn t).input = y := (input_moveOutToIn t).trans ((hwrites y hy).output_of_done hexec hd)
  have hidle : (moveOutToIn t).status ≠ .busy := by
    change t.status ≠ .busy
    rw [hd]
    decide
  obtain ⟨hdecodes, -⟩ := lz77DecodesExactlyTheStreams (moveOutToIn t) hidle hmove
  obtain ⟨hfits, -⟩ := hdecodes s.input (hinput ▸ hy.decodes)
  obtain ⟨-, hside, -⟩ := commandFrame .lz77c s t ⟨rfl, trivial⟩ hexec
  have hout : (moveOutToIn t).roomFor s.input.length := by
    rw [State.length_input]
    exact fun c hcap => hroom c (hside.par ▸ hcap)
  exact (hfits hout).mono fun u ⟨houtput, _⟩ => houtput

end Sys2Proof.Machine
end

section
/-! SUPPORT. Proofs: LZ78C writes the pairs of the growing dictionary and the flush, of bounded length (O20). -/

namespace Sys2Proof.Machine

/-! ### An iteration that writes nothing, and one that writes the last piece (R65, R261) -/

theorem GoesOnWriting.nothing (s : State) (w : Work) : GoesOnWriting [] w s (s.setWork w) :=
  ⟨fun _ => rfl, fun hover => absurd hover (not_overflowsBy_zero s)⟩

/-- The iteration that writes a last piece ends the loop. -/
theorem EndsWriting.of_emitSeq_finish {iter : State → State} {s : State} {bs : List Byte} (n : Nat)
    (hs : s.status = .busy) (h : iter s = orRaise s (emitSeq bs s) finish) :
    EndsWriting bs s (runLoop iter (n + 1) s) := by
  rw [runLoop_succ_of_busy _ _ hs, h]
  rcases emitSeq_spec bs s with ⟨hover, herr⟩ | ⟨hfits, hok⟩
  · rw [herr, orRaise, runLoop_of_not_busy _ _ (by simp)]
    exact ⟨fun hfits => absurd hover hfits, fun _ => ⟨s, rfl⟩⟩
  · rw [hok, orRaise, runLoop_of_not_busy _ _ (by simp), State.appendSeq_eq_grown]
    exact ⟨fun _ => ⟨s.work, rfl⟩, fun hover => absurd hover hfits⟩

/-! ### The dictionary of LZ78C as a list of phrases (R41, R200) -/

/-- `DICT78E` gives the phrases `ps` the codes 1, 2, … in their order, and `NEXT_CODE` is the one behind them. -/
structure Work.Lists78e (w : Work) (ps : List Phrase) : Prop where
  get? : ∀ p, Dict.get? w.dict78e p = if p ∈ ps then some (ps.idxOf p + 1) else none
  nextCode : w.nextCode = ps.length + 1

section
variable {s : State} {ps : List Phrase}

theorem Work.Lists78e.start (a : Nat) (w : Work) : (startWork 0x06#8 a w).Lists78e [] := ⟨fun _ => rfl, rfl⟩

theorem Work.Lists78e.isSome_get?_iff {w : Work} (h : w.Lists78e ps) (p : Phrase) :
    (Dict.get? w.dict78e p).isSome = true ↔ p ∈ ps := by
  rw [h.get? p]
  split <;> simp [*]

theorem Work.Lists78e.index_eq (h : s.work.Lists78e ps) (p : Phrase) : lz78Index s p = lz78Code ps p := by
  rw [lz78Index, h.get? p, lz78Code]
  split <;> rfl

/-- The working state behind a pair: the phrase is stored under `NEXT_CODE` and `CUR` is empty (R202). -/
def Work.store78e (p : Phrase) (w : Work) : Work :=
  { w with dict78e := Dict.insert w.dict78e p w.nextCode, nextCode := w.nextCode + 1, cur := [] }

theorem Work.Lists78e.store {w : Work} {p : Phrase} (h : w.Lists78e ps) (hnew : p ∉ ps) :
    (w.store78e p).Lists78e (ps ++ [p]) := by
  refine ⟨fun q => ?_, by simp [Work.store78e, h.nextCode]⟩
  change Dict.get? (Dict.insert w.dict78e p w.nextCode) q = _
  by_cases hq : q = p
  · subst hq
    simp [h.nextCode, List.idxOf_append_of_notMem hnew]
  · rw [Dict.get?_insert_ne _ _ hq, h.get? q]
    by_cases hmem : q ∈ ps
    · simp [hmem, List.idxOf_append_of_mem hmem]
    · simp [hmem, hq]

/-! ### One iteration of LZ78C (R202, R204) -/

theorem insert78e_setCur_nil (p : Phrase) (s : State) : (insert78e p s).setCur [] = s.setWork (s.work.store78e p) := rfl

/-- A byte that makes `CUR` another known phrase writes nothing. -/
theorem lz78cByte_of_mem {b : Byte} (h : s.work.Lists78e ps) (hmem : s.work.cur ++ [b] ∈ ps) :
    lz78cByte b s = s.setCur (s.work.cur ++ [b]) := if_pos ((h.isSome_get?_iff _).mpr hmem)

/-- A byte that makes `CUR` a new phrase writes its pair and stores the phrase. -/
theorem lz78cByte_of_not_mem {b : Byte} (h : s.work.Lists78e ps) (hnew : s.work.cur ++ [b] ∉ ps) :
    GoesOnWriting (encodePair (lz78Code ps s.work.cur) b) (s.work.store78e (s.work.cur ++ [b])) s (lz78cByte b s) := by
  rw [lz78cByte, if_neg (mt (h.isSome_get?_iff _).mp hnew), emitPair, h.index_eq]
  refine .of_emitSeq ?_
  rw [insert78e_setCur_nil, State.appendSeq_work]
  rfl

/-- One byte of the input takes the machine and the algorithm on alike. -/
theorem lz78cIter_goesOn (hpos : s.work.pos < s.inLen) (h : s.work.Lists78e ps) :
    ∃ bs w qs, w.pos = s.work.pos + 1 ∧ w.Lists78e qs ∧ GoesOnWriting bs w s (lz78cIter s) ∧
      lz78Encode ps s.work.cur (s.inFrom s.work.pos) = bs ++ lz78Encode qs w.cur (s.inFrom (s.work.pos + 1)) := by
  have hadvance : (s.advance 1).work.Lists78e ps := ⟨h.get?, h.nextCode⟩
  rw [lz78cIter, if_pos hpos, State.inFrom_eq_cons hpos, lz78Encode]
  split
  next hmem =>
    rw [lz78cByte_of_mem hadvance hmem]
    exact ⟨[], ((s.advance 1).setCur _).work, ps, rfl, ⟨h.get?, h.nextCode⟩, .nothing s _, rfl⟩
  next hnew => exact ⟨_, _, _, rfl, hadvance.store hnew, .of_setWork (lz78cByte_of_not_mem hadvance hnew), rfl⟩

/-- At the end of the input the flush writes the algorithm's last piece. -/
theorem lz78cIter_of_flush (hend : s.inLen ≤ s.work.pos) (h : s.work.Lists78e ps) :
    lz78cIter s = orRaise s (emitSeq (lz78Encode ps s.work.cur []) s) finish := by
  rw [lz78cIter, if_neg (Nat.not_lt.mpr hend), lz78cFlush, lz78Encode]
  cases s.work.cur.getLast? with
  | none => rfl
  | some c => rw [h.index_eq]

end

/-! ### The command LZ78C (R200, R204) -/

/-- From the cursor on, the loop of LZ78C writes what the algorithm does with the rest of the input. -/
theorem endsWriting_lz78c {s : State} {ps : List Phrase} {n : Nat} (hr : s.running 0x06#8) (hin : s.inputOk)
    (h : s.work.Lists78e ps) (hn : s.inLen - s.work.pos < n) :
    EndsWriting (lz78Encode ps s.work.cur (s.inFrom s.work.pos)) s (runLoop (guardLen lz78cIter) n s) := by
  induction n generalizing s ps with
  | zero => exact absurd hn (Nat.not_lt_zero _)
  | succ n ih =>
    have hguard := guardLen_of_ok (iter := lz78cIter) hin
    obtain hpos | hend := Nat.lt_or_ge s.work.pos s.inLen
    · obtain ⟨bs, w, qs, hw, hqs, hiter, hencode⟩ := lz78cIter_goesOn hpos h
      have hlen := (KeepsHostSide.grown s bs w).inLen
      have hrest := ih (hr.grown bs w) (inputOk_grown hin bs w) hqs (by rw [State.grown_work, hw, hlen]; omega)
      rw [State.inFrom_grown, State.grown_work, hw] at hrest
      rw [hencode]
      exact .of_goesOn n hr.1 (hguard.symm ▸ hiter) hrest
    · rw [State.inFrom_of_end hend]
      exact .of_emitSeq_finish n hr.1 (hguard.trans (lz78cIter_of_flush hend h))

theorem exec_lz78c {s : State} (hb : s.status ≠ .busy) :
    exec .lz78c s = .next (runLoop (guardLen lz78cIter) (s.inLen + 2) (start 0x06#8 s)) :=
  issue_runStream_of_not_busy hb

theorem writes_lz78c {s : State} (hb : s.status ≠ .busy) (hin : s.inputOk) :
    Writes .lz78c s (lz78Encode [] [] s.input) := by
  have hsame := SameInputs.start 0x06#8 s
  have hloop := endsWriting_lz78c (s := start 0x06#8 s) (n := s.inLen + 2) ⟨start_status _ s, start_cmd _ s⟩
    (hsame.inputOk hin) (.start s.arg0 s.work) (by rw [hsame.inLen]; omega)
  exact .of_endsWriting ⟨rfl, trivial⟩ (by decide) (exec_lz78c hb) hloop

/-! ### The bytes of the stream (R206) -/

theorem length_encodeVarint_mono {a b : Nat} (h : a ≤ b) : (encodeVarint a).length ≤ (encodeVarint b).length := by
  obtain ⟨m, hm⟩ := Nat.exists_eq_add_of_le' (Nat.one_le_of_lt (encodeVarint_length_pos b))
  rw [hm, length_encodeVarint_le_iff]
  exact h.trans_lt ((length_encodeVarint_le_iff m b).mp hm.le)

theorem lz78Code_le (ps : List Phrase) (p : Phrase) : lz78Code ps p ≤ ps.length := by
  unfold lz78Code
  split
  · exact List.idxOf_lt_length_of_mem ‹_›
  · exact Nat.zero_le _

/-- A pair whose index is among at most `n` phrases. -/
theorem length_encodePair_le {ps : List Phrase} {n : Nat} (h : ps.length ≤ n) (p : Phrase) (c : Byte) :
    (encodePair (lz78Code ps p) c).length ≤ 1 + (encodeVarint n).length := by
  have hindex := length_encodeVarint_mono ((lz78Code_le ps p).trans h)
  rw [length_encodePair]
  omega

/-- Each pair takes up at least one symbol of `CUR` and the input, and each new phrase one of the input. -/
theorem length_lz78Encode_le {ps : List Phrase} {cur : Phrase} {bs : List Byte} {n : Nat}
    (h : ps.length + bs.length ≤ n) :
    (lz78Encode ps cur bs).length ≤ (cur.length + bs.length) * (1 + (encodeVarint n).length) := by
  induction bs generalizing ps cur with
  | nil =>
    rw [lz78Encode]
    split
    next => exact Nat.zero_le _
    next c hlast =>
      have hcur : 1 ≤ cur.length := List.length_pos_of_mem (List.mem_of_getLast? hlast)
      exact (length_encodePair_le h _ c).trans (Nat.le_mul_of_pos_left _ hcur)
  | cons b bs ih =>
    rw [List.length_cons] at h ⊢
    rw [lz78Encode]
    split
    next =>
      refine (ih (by omega)).trans_eq ?_
      rw [List.length_append, List.length_singleton]
      ring
    next =>
      have hpair := length_encodePair_le (ps := ps) (n := n) (by omega) cur b
      have hrest := ih (ps := ps ++ [cur ++ [b]]) (cur := []) (by simp; omega)
      calc (encodePair (lz78Code ps cur) b ++ lz78Encode (ps ++ [cur ++ [b]]) [] bs).length
          ≤ (1 + (encodeVarint n).length) + (0 + bs.length) * (1 + (encodeVarint n).length) := by
            rw [List.length_append]
            exact Nat.add_le_add hpair hrest
        _ = (1 + bs.length) * (1 + (encodeVarint n).length) := by ring
        _ ≤ (cur.length + (bs.length + 1)) * (1 + (encodeVarint n).length) := Nat.mul_le_mul_right _ (by omega)

/-- Settles O20: LZ78C's loop goes as the algorithm does, whose pairs are no more than the symbols. -/
theorem lz78EncodesGrowingDictionary : Obligations.Lz78EncodesGrowingDictionary := by
  refine fun s hb hin => ⟨writes_lz78c hb hin, ?_⟩
  have hlen := length_lz78Encode_le (ps := []) (cur := []) (bs := s.input) (n := s.inLen) (by simp)
  simpa [lz78Bound] using hlen

end Sys2Proof.Machine
end

section
/-! SUPPORT. Proofs: one pair of LZ78D, the streams it decodes, and the round trip (O21, O22, O23). -/

namespace Sys2Proof.Machine

/-! ### The dictionary of LZ78D as a list of phrases (R42, R208) -/

/-- `insert78d` on the working state: the phrase is stored under `NEXT_CODE` (R210). -/
def Work.store78d (p : Phrase) (w : Work) : Work :=
  { w with dict78d := Dict.insert w.dict78d w.nextCode p, nextCode := w.nextCode + 1 }

theorem insert78d_eq_store78d (p : Phrase) (s : State) : insert78d p s = s.setWork (s.work.store78d p) := rfl

/-- `DICT78D` knows the phrases `ps` by their positions, and `NEXT_CODE` is the next position. -/
structure Work.Lists78d (w : Work) (ps : List Phrase) : Prop where
  get? : ∀ k, Dict.get? w.dict78d k = ps[k]?
  nextCode : w.nextCode = ps.length

theorem Work.Lists78d.start (a : Nat) (w : Work) : (startWork 0x07#8 a w).Lists78d [[]] := by
  refine ⟨fun k => ?_, rfl⟩
  cases k with
  | zero => rfl
  | succ k => rfl

theorem Work.Lists78d.store {w : Work} {ps : List Phrase} (h : w.Lists78d ps) (p : Phrase) :
    (w.store78d p).Lists78d (ps ++ [p]) := by
  refine ⟨fun k => ?_, by simp [Work.store78d, h.nextCode]⟩
  change Dict.get? (Dict.insert w.dict78d w.nextCode p) k = _
  by_cases hk : k = ps.length
  · simp [hk, h.nextCode]
  · rw [Dict.get?_insert_ne _ _ (h.nextCode ▸ hk), h.get? k, List.getElem?_append]
    split
    · rfl
    · rw [List.getElem?_eq_none (by omega), List.getElem?_eq_none (by simp; omega)]

/-! ### One pair (R210) -/

section
variable {s : State} {index : Nat} {c : Byte} {p : Phrase}

theorem exec_pair (index : Nat) (c : Byte) (hr : s.running 0x07#8) :
    exec (.lz78pair index c) s = .next (pairEffect index c s) :=
  exec_unit_of_running hr.1 (by rw [hr.2]; exact List.mem_cons_self)

/-- A known index: the phrase and the literal are written and stored, or do not fit. -/
theorem pairEffect_goesOn (known : Dict.get? s.work.dict78d index = some p) :
    GoesOnWriting (p ++ [c]) (s.work.store78d (p ++ [c])) s (pairEffect index c s) := by
  rw [pairEffect, known]
  refine .of_emitSeq ?_
  rw [insert78d_eq_store78d, State.appendSeq_work]
  rfl

theorem pairEffect_of_unknown (unknown : Dict.get? s.work.dict78d index = none) :
    pairEffect index c s = raise .corruptStream s := by
  rw [pairEffect, unknown]

end

/-- Settles O23: a known pair is its phrase and literal written and stored, an unknown one an error completion. -/
theorem pairAppendsAndStoresItsPhrase : Obligations.PairAppendsAndStoresItsPhrase := by
  refine fun s index c hr => ⟨fun p known hroom => ?_, fun unknown => ?_⟩
  · have hfits : ¬ s.overflowsBy (p ++ [c]).length :=
      State.not_overflowsBy_of_roomFor (by rwa [List.length_append, ← Nat.add_assoc])
    refine ⟨_, exec_pair index c hr, ?_⟩
    rw [(pairEffect_goesOn known).fits hfits]
    exact ⟨(s.output_grown _ _).trans (List.append_assoc _ _ _).symm, rfl, Dict.get?_insert_self _ _ _,
      fun q hq => Dict.get?_insert_ne _ _ hq, rfl, ⟨s.grown_cmd _ _, s.grown_status _ _, s.grown_kind _ _⟩,
      .grown s _ _, .grown s _ _⟩
  · exact unitRaises_of_raise hr List.mem_cons_self (by decide) (pairEffect_of_unknown unknown)

/-! ### One iteration of LZ78D (R209, R210) -/

section
variable {s : State} {ps : List Phrase}

/-- An iteration of LZ78D at a pair of its stream gives it its effect. -/
theorem lz78dIter_of_ok {index n : Nat} {c : Byte}
    (unit : decodePair (s.inFrom s.work.pos) = .ok (.lz78pair index c) n) :
    lz78dIter s = pairEffect index c (s.advance n) := by
  have hpos : s.work.pos < s.inLen := by
    have hsize := decode_size_pos (f := .lz78pair) unit
    have hle := (decodePair_ok unit).2
    rw [State.length_inFrom] at hle
    omega
  rw [lz78dIter, decoderIter, if_pos hpos, State.unitAt, decode, unit]
  rfl

/-- A pair with a known index takes the machine and the algorithm on alike. -/
theorem lz78dIter_goesOn {index n : Nat} {c : Byte} {p : Phrase}
    (unit : decodePair (s.inFrom s.work.pos) = .ok (.lz78pair index c) n) (h : s.work.Lists78d ps)
    (known : ps[index]? = some p) :
    ∃ w : Work, w.pos = s.work.pos + n ∧ w.Lists78d (ps ++ [p ++ [c]]) ∧
      GoesOnWriting (p ++ [c]) w s (lz78dIter s) := by
  have hadvance : (s.advance n).work.Lists78d ps := ⟨h.get?, h.nextCode⟩
  have hpair := pairEffect_goesOn (s := s.advance n) (c := c) ((hadvance.get? index).trans known)
  rw [lz78dIter_of_ok unit]
  exact ⟨_, rfl, hadvance.store _, .of_setWork hpair⟩

/-- An iteration of LZ78D ends the command, fails, or stands at a pair with a known index. -/
theorem lz78dIter_cases (h : s.work.Lists78d ps) :
    (s.inLen ≤ s.work.pos ∧ lz78dIter s = finish s) ∨ (∃ k u, lz78dIter s = raise k u) ∨
      ∃ index c n p, decodePair (s.inFrom s.work.pos) = .ok (.lz78pair index c) n ∧ ps[index]? = some p := by
  obtain hpos | hend := Nat.lt_or_ge s.work.pos s.inLen
  case inr => exact .inl ⟨hend, decoderIter_of_end .lz78pair hend⟩
  refine .inr ?_
  cases hunit : decodePair (s.inFrom s.work.pos) with
  | error e => exact .inl ⟨_, _, decoderIter_of_error (f := .lz78pair) hpos hunit⟩
  | ok i n =>
    have hformat := (decodePair_ok hunit).1
    cases i with
    | lz78pair index c =>
      cases hknown : ps[index]? with
      | some p => exact .inr ⟨index, c, n, p, rfl, hknown⟩
      | none =>
        rw [lz78dIter_of_ok hunit]
        exact .inl ⟨_, _, pairEffect_of_unknown (s := s.advance n) ((h.get? index).trans hknown)⟩
    | _ => cases hformat

end

/-! ### The command LZ78D (R208) -/

/-- From the cursor on, the loop of LZ78D writes what the algorithm decodes the rest of the stream to. -/
theorem Lz78Decodes.endsWriting {bs y : List Byte} {ps : List Phrase} (h : Lz78Decodes bs ps y) {s : State} {m : Nat}
    (hr : s.running 0x07#8) (hin : s.inputOk) (hbs : s.inFrom s.work.pos = bs) (hps : s.work.Lists78d ps)
    (hm : bs.length < m) : EndsWriting y s (runLoop (guardLen lz78dIter) m s) := by
  induction h generalizing s m with
  | stop ps =>
    obtain ⟨m, rfl⟩ := Nat.exists_eq_add_of_le' (Nat.one_le_of_lt hm)
    have hend : s.inLen ≤ s.work.pos := Nat.le_of_sub_eq_zero (by rw [← State.length_inFrom, hbs]; rfl)
    exact .of_finish m hr.1 ((guardLen_of_ok hin).trans (decoderIter_of_end .lz78pair hend))
  | pair bs y ps index n c p unit known tail ih =>
    subst hbs
    obtain ⟨m, rfl⟩ := Nat.exists_eq_add_of_le' (Nat.one_le_of_lt hm)
    obtain ⟨w, hw, hstored, hiter⟩ := lz78dIter_goesOn unit hps known
    have hsize := decode_size_pos (f := .lz78pair) unit
    have hle := (decodePair_ok unit).2
    rw [← guardLen_of_ok (iter := lz78dIter) hin] at hiter
    refine .of_goesOn m hr.1 hiter (ih (hr.grown _ w) (inputOk_grown hin _ w) ?_ hstored ?_)
    · rw [State.inFrom_grown, State.grown_work, hw, State.inFrom_add]
    · rw [List.length_drop]
      omega

/-- What LZ78D's loop has written where it ends `DONE`, the algorithm decodes. -/
theorem lz78Decodes_of_done {s : State} {ps : List Phrase} {m : Nat} (hr : s.running 0x07#8) (hin : s.inputOk)
    (hps : s.work.Lists78d ps) (hd : (runLoop (guardLen lz78dIter) m s).status = .done) :
    ∃ y, Lz78Decodes (s.inFrom s.work.pos) ps y ∧ (runLoop (guardLen lz78dIter) m s).output = s.output ++ y := by
  induction m generalizing s ps with
  | zero => cases hr.1.symm.trans hd
  | succ m ih =>
    rw [runLoop_succ_of_busy _ _ hr.1, guardLen_of_ok hin] at hd ⊢
    have hnotRaised {k : ErrKind} : ¬ ∃ u, lz78dIter s = raise k u := by
      rintro ⟨u, hiter⟩
      rw [hiter, runLoop_of_not_busy _ _ (by simp), raise_status] at hd
      cases hd
    obtain ⟨hend, hiter⟩ | ⟨k, hraise⟩ | ⟨index, c, n, p, unit, known⟩ := lz78dIter_cases hps
    · rw [hiter, runLoop_of_not_busy _ _ (by simp), State.inFrom_of_end hend, finish_output]
      exact ⟨[], .stop ps, (List.append_nil _).symm⟩
    · exact absurd hraise hnotRaised
    · obtain ⟨w, hw, hstored, hfits, hover⟩ := lz78dIter_goesOn unit hps known
      rw [hfits (mt hover hnotRaised)] at hd ⊢
      obtain ⟨y, htail, hout⟩ := ih (hr.grown _ w) (inputOk_grown hin _ w) hstored hd
      rw [State.inFrom_grown, State.grown_work, hw, State.inFrom_add] at htail
      exact ⟨_, .pair _ y ps index n c p unit known htail, by rw [hout, State.output_grown, List.append_assoc]⟩

theorem exec_lz78d {s : State} (hb : s.status ≠ .busy) :
    exec .lz78d s = .next (runLoop (guardLen lz78dIter) (s.inLen + 2) (start 0x07#8 s)) :=
  issue_runStream_of_not_busy hb

/-- Settles O21: LZ78D starts at the head of its input with the empty phrase alone, and its loop goes as the algorithm
does. -/
theorem lz78DecodesExactlyTheStreams : Obligations.Lz78DecodesExactlyTheStreams := by
  intro s hb hin
  have hr : (start 0x07#8 s).running 0x07#8 := ⟨start_status _ s, start_cmd _ s⟩
  have hempty : (start 0x07#8 s).output = [] := State.output_of_outLen_zero (start_outLen 0x07#8 s)
  have hps : (start 0x07#8 s).work.Lists78d [[]] := .start s.arg0 s.work
  have hexec := exec_lz78d hb
  refine ⟨fun y h => ?_, fun t ht hd => ?_⟩
  · exact .of_endsWriting ⟨rfl, trivial⟩ (by decide) hexec
      (h.endsWriting hr hin rfl hps (by rw [State.length_input]; omega))
  · cases hexec.symm.trans ht
    obtain ⟨y, hdecodes, hout⟩ := lz78Decodes_of_done hr hin hps hd
    rw [hempty, List.nil_append] at hout
    exact hout ▸ hdecodes

/-! ### The round trip (R203, R214) -/

/-- Every known phrase is one more byte behind another known phrase or the empty one (R45, R203). -/
def PrefixClosed (ps : List Phrase) : Prop := ∀ p b, p ++ [b] ∈ ps → p ∈ [] :: ps

theorem PrefixClosed.append {ps : List Phrase} {p : Phrase} (h : PrefixClosed ps) (hp : p ∈ [] :: ps) (b : Byte) :
    PrefixClosed (ps ++ [p ++ [b]]) := by
  intro q c hq
  rw [← List.cons_append, List.mem_append]
  rcases List.mem_append.mp hq with hold | hnew
  · exact .inl (h q c hold)
  · obtain ⟨rfl, -⟩ := List.append_inj' (List.mem_singleton.mp hnew) rfl
    exact .inl hp

/-- The decoder's phrase under the encoder's code of a known phrase is that phrase. -/
theorem getElem?_lz78Code {ps : List Phrase} {p : Phrase} (hp : p ∈ [] :: ps) :
    ([] :: ps)[lz78Code ps p]? = some p := by
  unfold lz78Code
  split
  next hmem => rw [List.getElem?_cons_succ, List.getElem?_idxOf hmem]
  next hnot =>
    obtain rfl | hmem := List.mem_cons.mp hp
    · rfl
    · exact absurd hmem hnot

/-- A pair that the encoder writes decodes to its phrase and its literal. -/
theorem Lz78Decodes.of_encodePair {ps : List Phrase} {p : Phrase} {rest y : List Byte} {c : Byte} (hp : p ∈ [] :: ps)
    (tail : Lz78Decodes rest ([] :: (ps ++ [p ++ [c]])) y) :
    Lz78Decodes (encodePair (lz78Code ps p) c ++ rest) ([] :: ps) (p ++ [c] ++ y) := by
  refine .pair _ y _ (lz78Code ps p) _ c p (decodeOfEncodeIsIdentity (.lz78pair _ c) rest trivial)
    (getElem?_lz78Code hp) ?_
  rwa [encode, List.drop_left]

/-- The encoder's stream decodes, with the same phrases, to the current phrase and the rest of the input. -/
theorem lz78Decodes_lz78Encode {ps : List Phrase} {cur : Phrase} {bs : List Byte} (h : PrefixClosed ps)
    (hcur : cur ∈ [] :: ps) : Lz78Decodes (lz78Encode ps cur bs) ([] :: ps) (cur ++ bs) := by
  induction bs generalizing ps cur with
  | nil =>
    rw [lz78Encode, List.append_nil]
    split
    next hnone =>
      rw [List.getLast?_eq_none_iff.mp hnone]
      exact .stop _
    next c hlast =>
      obtain ⟨p, rfl⟩ := List.getLast?_eq_some_iff.mp hlast
      have hp : p ∈ [] :: ps := h p c ((List.mem_cons.mp hcur).resolve_left (by simp))
      rw [List.dropLast_concat]
      simpa using Lz78Decodes.of_encodePair hp (.stop _)
  | cons b bs ih =>
    rw [lz78Encode]
    split
    next hmem => simpa using ih h (List.mem_cons_of_mem _ hmem)
    next => simpa using Lz78Decodes.of_encodePair hcur (ih (h.append hcur b) List.mem_cons_self)

/-- What an encoder has written where it ends `DONE`, a decoder that undoes it turns into the original (R76, R325). -/
theorem Writes.undone {enc dec : Instr} {s t : State} {y : List Byte} (hi : IsIssued enc) (h : Writes enc s y)
    (hexec : exec enc s = .next t) (hd : t.status = .done) (hroom : s.roomFor s.inLen)
    (hdec : (moveOutToIn t).status ≠ .busy → (moveOutToIn t).input = y → Writes dec (moveOutToIn t) s.input) :
    Succeeds dec (moveOutToIn t) fun u => u.output = s.input := by
  have hidle : (moveOutToIn t).status ≠ .busy := by
    change t.status ≠ .busy
    rw [hd]
    decide
  obtain ⟨hfits, -⟩ := hdec hidle ((input_moveOutToIn t).trans (h.output_of_done hexec hd))
  obtain ⟨-, hside, -⟩ := commandFrame enc s t hi hexec
  have hout : (moveOutToIn t).roomFor s.input.length := by
    rw [State.length_input]
    exact fun c hcap => hroom c (hside.par ▸ hcap)
  exact (hfits hout).mono fun u ⟨houtput, _⟩ => houtput

/-- Settles O22: R206's bound is room for the pairs of the growing dictionary, and a run that ends `DONE` has written
them, which LZ78D decodes to the original. -/
theorem lz78RoundTrip : Obligations.Lz78RoundTrip := by
  intro s hb hin hroom
  obtain ⟨hwrites, hbound⟩ := lz78EncodesGrowingDictionary s hb hin
  refine ⟨fun hcap => ?_, fun t hexec hd hmove => ?_⟩
  · obtain ⟨hfits, -⟩ := hwrites
    exact (hfits fun c hc => hbound.trans (hcap c hc)).mono fun _ _ => trivial
  · refine hwrites.undone ⟨rfl, trivial⟩ hexec hd hroom fun hidle hinput => ?_
    obtain ⟨hdecodes, -⟩ := lz78DecodesExactlyTheStreams (moveOutToIn t) hidle hmove
    exact hdecodes s.input (hinput ▸ lz78Decodes_lz78Encode nofun List.mem_cons_self)

end Sys2Proof.Machine
end

section
/-! SUPPORT. Proofs: LZWC writes the codes of the bounded table, and a full table stays frozen (O24, O30). -/

namespace Sys2Proof.Machine

/-! ### The single bytes (R43, R44) -/

@[simp] theorem length_singleBytes : singleBytes.length = 256 := by simp [singleBytes]

theorem getElem?_singleBytes (k : Nat) : singleBytes[k]? = if k < 256 then some [BitVec.ofNat 8 k] else none := by
  rw [singleBytes, List.getElem?_map]
  split
  · rw [List.getElem?_range ‹_›, Option.map_some]
  · rw [List.getElem?_eq_none (by rwa [List.length_range, ← Nat.not_lt]), Option.map_none]

theorem mem_singleBytes_iff {p : Phrase} : p ∈ singleBytes ↔ ∃ b : Byte, p = [b] := by
  refine ⟨fun h => ?_, ?_⟩
  · obtain ⟨c, -, rfl⟩ := List.mem_map.mp h
    exact ⟨_, rfl⟩
  · rintro ⟨b, rfl⟩
    exact List.mem_map.mpr ⟨b.toNat, List.mem_range.mpr b.isLt, by rw [BitVec.ofNat_toNat, BitVec.setWidth_eq]⟩

theorem idxOf_singleBytes (b : Byte) : singleBytes.idxOf [b] = b.toNat := by
  have hfound := List.getElem?_idxOf (mem_singleBytes_iff.mpr ⟨b, rfl⟩)
  rw [getElem?_singleBytes] at hfound
  split at hfound
  next hlt =>
    have hcode := congrArg BitVec.toNat (List.singleton_inj.mp (Option.some.inj hfound))
    rwa [BitVec.toNat_ofNat, Nat.mod_eq_of_lt hlt] at hcode
  next => cases hfound

/-! ### The algorithm's table (R230, R234) -/

/-- The phrases with one more, unless they are 4096 (R234, R243). -/
def lzwStore (ps : List Phrase) (p : Phrase) : List Phrase := if ps.length < 4096 then ps ++ [p] else ps

theorem lzwStore_of_lt {ps : List Phrase} (p : Phrase) (h : ps.length < 4096) : lzwStore ps p = ps ++ [p] := if_pos h

theorem lzwStore_of_full {ps : List Phrase} (p : Phrase) (h : ¬ ps.length < 4096) : lzwStore ps p = ps := if_neg h

/-- Where LZW encoding stands: every single byte has a code, the codes are at most 4096, and the current phrase has one
unless it is empty (R35, R233, R234). -/
structure LzwEncoding (ps : List Phrase) (cur : Phrase) : Prop where
  single : ∀ b : Byte, [b] ∈ ps
  length_le : ps.length ≤ 4096
  cur : cur = [] ∨ cur ∈ ps

section
variable {ps : List Phrase} {cur : Phrase}

theorem lzwEncode_of_mem {b : Byte} (bs : List Byte) (h : cur ++ [b] ∈ ps) :
    lzwEncode ps cur (b :: bs) = lzwEncode ps (cur ++ [b]) bs := if_pos h

theorem lzwEncode_of_not_mem {b : Byte} (bs : List Byte) (h : cur ++ [b] ∉ ps) :
    lzwEncode ps cur (b :: bs) = ps.idxOf cur :: lzwEncode (lzwStore ps (cur ++ [b])) [b] bs := if_neg h

theorem LzwEncoding.start : LzwEncoding singleBytes [] :=
  ⟨fun b => mem_singleBytes_iff.mpr ⟨b, rfl⟩, by rw [length_singleBytes]; decide, .inl rfl⟩

theorem LzwEncoding.setCur {p : Phrase} (h : LzwEncoding ps cur) (hp : p ∈ ps) : LzwEncoding ps p :=
  ⟨h.single, h.length_le, .inr hp⟩

/-- Behind a code, with the phrase stored or not, the current phrase is one byte. -/
theorem LzwEncoding.store (h : LzwEncoding ps cur) (p : Phrase) (b : Byte) : LzwEncoding (lzwStore ps p) [b] := by
  by_cases hroom : ps.length < 4096
  · rw [lzwStore_of_lt p hroom]
    have hsingle (c : Byte) : [c] ∈ ps ++ [p] := List.mem_append_left _ (h.single c)
    exact ⟨hsingle, by simpa using hroom, .inr (hsingle b)⟩
  · rw [lzwStore_of_full p hroom]
    exact h.setCur (h.single b)

theorem LzwEncoding.cur_ne_nil {b : Byte} (h : LzwEncoding ps cur) (hnew : cur ++ [b] ∉ ps) : cur ≠ [] := by
  rintro rfl
  exact hnew (h.single b)

/-- A phrase that one more byte makes unknown has a code itself (R233). -/
theorem LzwEncoding.cur_mem {b : Byte} (h : LzwEncoding ps cur) (hnew : cur ++ [b] ∉ ps) : cur ∈ ps :=
  h.cur.resolve_left (h.cur_ne_nil hnew)

theorem LzwEncoding.idxOf_lt (h : LzwEncoding ps cur) (hcur : cur ∈ ps) : ps.idxOf cur < 4096 :=
  (List.idxOf_lt_length_of_mem hcur).trans_le h.length_le

/-- Every code is that of an entry of the table (R246). -/
theorem LzwEncoding.code_lt {bs : List Byte} (h : LzwEncoding ps cur) : ∀ k ∈ lzwEncode ps cur bs, k < 4096 := by
  induction bs generalizing ps cur with
  | nil =>
    rw [lzwEncode]
    split
    next => exact fun _ hk => absurd hk List.not_mem_nil
    next hne => exact List.forall_mem_singleton.mpr (h.idxOf_lt (h.cur.resolve_left hne))
  | cons b bs ih =>
    by_cases hmem : cur ++ [b] ∈ ps
    · rw [lzwEncode_of_mem bs hmem]
      exact ih (h.setCur hmem)
    · rw [lzwEncode_of_not_mem bs hmem]
      exact List.forall_mem_cons.mpr ⟨h.idxOf_lt (h.cur_mem hmem), ih (h.store _ b)⟩

/-- Each code takes up at least one symbol of the current phrase (R236). -/
theorem LzwEncoding.length_le_symbols {bs : List Byte} (h : LzwEncoding ps cur) :
    (lzwEncode ps cur bs).length ≤ cur.length + bs.length := by
  induction bs generalizing ps cur with
  | nil =>
    rw [lzwEncode]
    split
    next => exact Nat.zero_le _
    next hne => exact List.length_pos_iff.mpr hne
  | cons b bs ih =>
    rw [List.length_cons]
    by_cases hmem : cur ++ [b] ∈ ps
    · have hrest := ih (h.setCur hmem)
      rw [List.length_append, List.length_singleton] at hrest
      rw [lzwEncode_of_mem bs hmem]
      omega
    · have hrest := ih (h.store (cur ++ [b]) b)
      have hcur : 0 < cur.length := List.length_pos_iff.mpr (h.cur_ne_nil hmem)
      rw [List.length_singleton] at hrest
      rw [lzwEncode_of_not_mem bs hmem, List.length_cons]
      omega

end

/-! ### The bytes of the codes (R67, R103) -/

theorem codeBytes_cons (k : Nat) (ks : List Nat) :
    codeBytes (k :: ks) = encodeCode (BitVec.ofNat 16 k) ++ codeBytes ks := rfl

theorem length_codeBytes (ks : List Nat) : (codeBytes ks).length = 2 * ks.length := by
  induction ks with
  | nil => rfl
  | cons k ks ih => rw [codeBytes_cons, List.length_append, ih, length_encodeCode, List.length_cons]; omega

/-! ### The dictionary of LZWC as a list of phrases (R43, R230) -/

/-- `DICTWE` gives the phrases `ps` the codes 0, 1, … in their order, and `NEXT_CODE` is the one behind them. -/
structure Work.ListsWe (w : Work) (ps : List Phrase) : Prop where
  get? : ∀ p, Dict.get? w.dictwe p = if p ∈ ps then some (ps.idxOf p) else none
  length : w.dictwe.length = ps.length
  nextCode : w.nextCode = ps.length

section
variable {s : State} {ps : List Phrase}

theorem Work.ListsWe.start (a : Nat) (w : Work) : (startWork 0x08#8 a w).ListsWe singleBytes := by
  refine ⟨fun p => ?_, length_seedsEncode.trans length_singleBytes.symm, length_singleBytes.symm⟩
  change Dict.get? seedsEncode p = _
  split
  next hmem =>
    obtain ⟨b, rfl⟩ := mem_singleBytes_iff.mp hmem
    rw [get?_seedsEncode, idxOf_singleBytes]
  next hnot =>
    rw [Dict.get?_eq_none_iff]
    rintro e he rfl
    obtain ⟨c, -, rfl⟩ := List.mem_map.mp he
    exact hnot (mem_singleBytes_iff.mpr ⟨_, rfl⟩)

theorem Work.ListsWe.isSome_get?_iff {w : Work} (h : w.ListsWe ps) (p : Phrase) :
    (Dict.get? w.dictwe p).isSome = true ↔ p ∈ ps := by
  rw [h.get? p]
  split <;> simp [*]

theorem Work.ListsWe.curCode_eq (h : s.work.ListsWe ps) (hcur : s.work.cur ∈ ps) : curCode s = ps.idxOf s.work.cur := by
  rw [curCode, h.get?, if_pos hcur, Option.getD_some]

theorem Work.storeWe_of_lt {w : Work} (p : Phrase) (h : w.dictwe.length < 4096) :
    w.storeWe p = { w with dictwe := Dict.insert w.dictwe p w.nextCode, nextCode := w.nextCode + 1 } := if_pos h

/-- A full table takes no more phrases (R234). -/
theorem Work.storeWe_of_full {w : Work} (p : Phrase) (h : ¬ w.dictwe.length < 4096) : w.storeWe p = w := if_neg h

theorem Work.ListsWe.store {w : Work} {p : Phrase} (h : w.ListsWe ps) (hnew : p ∉ ps) :
    (w.storeWe p).ListsWe (lzwStore ps p) := by
  by_cases hroom : w.dictwe.length < 4096
  · rw [w.storeWe_of_lt p hroom, lzwStore_of_lt p (h.length ▸ hroom)]
    have hnone : Dict.get? w.dictwe p = none := by rw [h.get?, if_neg hnew]
    refine ⟨fun q => ?_, ?_, by simp [h.nextCode]⟩
    · by_cases hq : q = p
      · subst hq
        simp [h.nextCode, List.idxOf_append_of_notMem hnew]
      · rw [Dict.get?_insert_ne _ _ hq, h.get? q]
        by_cases hmem : q ∈ ps
        · simp [hmem, List.idxOf_append_of_mem hmem]
        · simp [hmem, hq]
    · rw [Dict.length_insert _ hnone, h.length, List.length_append, List.length_singleton]
  · rw [w.storeWe_of_full p hroom, lzwStore_of_full p (h.length ▸ hroom)]
    exact h

/-! ### One iteration of LZWC (R231, R232) -/

/-- A byte that makes `CUR` another known phrase writes nothing. -/
theorem lzwcByte_of_mem {b : Byte} (h : s.work.ListsWe ps) (hmem : s.work.cur ++ [b] ∈ ps) :
    lzwcByte b s = s.setCur (s.work.cur ++ [b]) := if_pos ((h.isSome_get?_iff _).mpr hmem)

/-- A byte that makes `CUR` a new phrase writes `CUR`'s code and stores the phrase where there is room. -/
theorem lzwcByte_of_not_mem {b : Byte} (h : s.work.ListsWe ps) (hcur : s.work.cur ∈ ps)
    (hnew : s.work.cur ++ [b] ∉ ps) :
    GoesOnWriting (encodeCode (BitVec.ofNat 16 (ps.idxOf s.work.cur)))
      { s.work.storeWe (s.work.cur ++ [b]) with cur := [b] } s (lzwcByte b s) := by
  rw [lzwcByte, if_neg (mt (h.isSome_get?_iff _).mp hnew), emitCur, h.curCode_eq hcur]
  refine .of_emitSeq ?_
  rw [insertWe_eq_storeWe, State.appendSeq_work]
  rfl

/-- One byte of the input takes the machine and the algorithm on alike. -/
theorem lzwcIter_goesOn (hpos : s.work.pos < s.inLen) (h : s.work.ListsWe ps) (henc : LzwEncoding ps s.work.cur) :
    ∃ bs w qs, w.pos = s.work.pos + 1 ∧ w.ListsWe qs ∧ LzwEncoding qs w.cur ∧ GoesOnWriting bs w s (lzwcIter s) ∧
      codeBytes (lzwEncode ps s.work.cur (s.inFrom s.work.pos)) =
        bs ++ codeBytes (lzwEncode qs w.cur (s.inFrom (s.work.pos + 1))) := by
  have hadvance : (s.advance 1).work.ListsWe ps := ⟨h.get?, h.length, h.nextCode⟩
  rw [lzwcIter, if_pos hpos, State.inFrom_eq_cons hpos]
  by_cases hmem : s.work.cur ++ [s.inByte s.work.pos] ∈ ps
  · rw [lzwcByte_of_mem hadvance hmem, lzwEncode_of_mem _ hmem]
    exact ⟨[], ((s.advance 1).setCur _).work, ps, rfl, ⟨h.get?, h.length, h.nextCode⟩, henc.setCur hmem, .nothing s _,
      rfl⟩
  · have hbyte := lzwcByte_of_not_mem hadvance (henc.cur_mem hmem) hmem
    have hstored := hadvance.store hmem
    rw [lzwEncode_of_not_mem _ hmem]
    refine ⟨_, _, _, ?_, ?_, ?_, .of_setWork hbyte, codeBytes_cons _ _⟩
    · exact Work.storeWe_pos _ _
    · exact ⟨hstored.get?, hstored.length, hstored.nextCode⟩
    · exact henc.store _ _

/-- At the end of the input a non-empty `CUR`'s code is the algorithm's last one. -/
theorem lzwcIter_of_last (hend : s.inLen ≤ s.work.pos) (h : s.work.ListsWe ps) (henc : LzwEncoding ps s.work.cur) :
    lzwcIter s = orRaise s (emitSeq (codeBytes (lzwEncode ps s.work.cur [])) s) finish := by
  rw [lzwcIter, if_neg (Nat.not_lt.mpr hend), lzwcLast, lzwEncode]
  split
  next => rfl
  next hne =>
    rw [h.curCode_eq (henc.cur.resolve_left hne)]
    rfl

end

/-! ### The command LZWC (R230) -/

/-- From the cursor on, the loop of LZWC writes the algorithm's codes of the rest of the input. -/
theorem endsWriting_lzwc {s : State} {ps : List Phrase} {n : Nat} (hr : s.running 0x08#8) (hin : s.inputOk)
    (h : s.work.ListsWe ps) (henc : LzwEncoding ps s.work.cur) (hn : s.inLen - s.work.pos < n) :
    EndsWriting (codeBytes (lzwEncode ps s.work.cur (s.inFrom s.work.pos))) s (runLoop (guardLen lzwcIter) n s) := by
  induction n generalizing s ps with
  | zero => exact absurd hn (Nat.not_lt_zero _)
  | succ n ih =>
    have hguard := guardLen_of_ok (iter := lzwcIter) hin
    obtain hpos | hend := Nat.lt_or_ge s.work.pos s.inLen
    · obtain ⟨bs, w, qs, hw, hqs, hcur, hiter, hencode⟩ := lzwcIter_goesOn hpos h henc
      have hlen := (KeepsHostSide.grown s bs w).inLen
      have hrest := ih (hr.grown bs w) (inputOk_grown hin bs w) hqs hcur (by rw [State.grown_work, hw, hlen]; omega)
      rw [State.inFrom_grown, State.grown_work, hw] at hrest
      rw [hencode]
      exact .of_goesOn n hr.1 (hguard.symm ▸ hiter) hrest
    · rw [State.inFrom_of_end hend]
      exact .of_emitSeq_finish n hr.1 (hguard.trans (lzwcIter_of_last hend h henc))

theorem exec_lzwc {s : State} (hb : s.status ≠ .busy) :
    exec .lzwc s = .next (runLoop (guardLen lzwcIter) (s.inLen + 2) (start 0x08#8 s)) :=
  issue_runStream_of_not_busy hb

theorem writes_lzwc {s : State} (hb : s.status ≠ .busy) (hin : s.inputOk) :
    Writes .lzwc s (codeBytes (lzwEncode singleBytes [] s.input)) := by
  have hsame := SameInputs.start 0x08#8 s
  have hloop := endsWriting_lzwc (s := start 0x08#8 s) (n := s.inLen + 2) ⟨start_status _ s, start_cmd _ s⟩
    (hsame.inputOk hin) (.start s.arg0 s.work) .start (by rw [hsame.inLen]; omega)
  exact .of_endsWriting ⟨rfl, trivial⟩ (by decide) (exec_lzwc hb) hloop

/-- Settles O24: LZWC's loop goes as the algorithm does, whose codes are entries of its table and no more than the
symbols. -/
theorem lzwEncodesBoundedTable : Obligations.LzwEncodesBoundedTable := by
  refine fun s hb hin => ⟨writes_lzwc hb hin, ?_, fun k hk => Nat.le_of_lt_succ (LzwEncoding.start.code_lt k hk)⟩
  have hcodes := LzwEncoding.start.length_le_symbols (bs := s.input)
  rw [List.length_nil, Nat.zero_add, State.length_input] at hcodes
  rw [length_codeBytes]
  exact Nat.mul_le_mul_left 2 hcodes

/-! ### The full table (R234) -/

/-- Settles O30: an iteration of LZWC that goes on changes its table by `storeWe` alone, which leaves a full one. -/
theorem fullEncoderTableStaysFrozen : Obligations.FullEncoderTableStaysFrozen := by
  intro s t hr hfull ht hbusy
  have hiter : engineIter s = guardLen lzwcIter s := by rw [engineIter, hr.2]; rfl
  cases (step_of_busy hr.1).symm.trans ht
  rw [hiter] at hbusy ⊢
  refine (guardLen_outIteration (P := fun w => w.dictwe = s.work.dictwe ∧ w.nextCode = s.work.nextCode)
    (lzwcIter_outIteration (lzwcByte_outIteration (fun _ => ⟨rfl, rfl⟩) fun _ => ?_))).work_of_busy hbusy
  rw [Work.storeWe_of_full (w := (s.advance 1).work) _ (Nat.not_lt.mpr hfull)]
  exact ⟨rfl, rfl⟩

end Sys2Proof.Machine
end

section
/-! SUPPORT. Proofs: one code word of LZWD, its tests of the whole stream, and the streams it decodes (O25, O27, O28,
O29). -/

namespace Sys2Proof.Machine

/-! ### One code word (R240, R241) -/

section
variable {s : State} {k : Nat} {p e : Phrase}

theorem exec_code (k : CodeWord) (hr : s.running 0x09#8) : exec (.lzwcode k) s = .next (codeEffect k s) :=
  exec_unit_of_running hr.1 (by rw [hr.2]; exact List.mem_cons_self)

/-- A known first code: its phrase is written and is `PREV`, or does not fit. -/
theorem firstCode_goesOn (known : Dict.get? s.work.dictwd k = some p) :
    GoesOnWriting p { s.work with prev := p } s (firstCode k s) := by
  rw [firstCode, known]
  refine .of_emitSeq ?_
  rw [State.setPrev, State.appendSeq_work]
  rfl

theorem firstCode_of_unknown (unknown : Dict.get? s.work.dictwd k = none) : firstCode k s = raise .corruptStream s := by
  rw [firstCode, unknown]

/-- The working state behind a later code word with the entry `e`: `PREV` and the entry's first byte are stored where
there is room, and the entry is `PREV` (R240, R243). -/
def Work.takeEntry (e : Phrase) (w : Work) : Work := { w.storeWd (w.prev ++ e.take 1) with prev := e }

/-- A later code with an entry: the entry is written, or does not fit. -/
theorem laterCode_goesOn (entry : codeEntry k s = some e) :
    GoesOnWriting e (s.work.takeEntry e) s (laterCode k s) := by
  rw [laterCode, entry]
  refine .of_emitSeq ?_
  rw [insertWd_eq_storeWd, State.appendSeq_work]
  rfl

theorem laterCode_of_noEntry (hnone : codeEntry k s = none) : laterCode k s = raise .corruptStream s := by
  rw [laterCode, hnone]

theorem codeEntry_of_rejected (unknown : Dict.get? s.work.dictwd k = none) (hk : k ≠ s.work.nextCode) :
    codeEntry k s = none := by
  rw [codeEntry, unknown]
  exact if_neg hk

/-- `POS` is 2 behind the first code word alone (log entry 26). -/
theorem codeEffect_of_first {k : CodeWord} (h : s.work.pos = 2) : codeEffect k s = firstCode k.toNat s := if_pos h

theorem codeEffect_of_later {k : CodeWord} (h : s.work.pos ≠ 2) : codeEffect k s = laterCode k.toNat s := if_neg h

end

theorem Work.storeWd_of_lt {w : Work} (p : Phrase) (h : w.dictwd.length < 4096) :
    w.storeWd p = { w with dictwd := Dict.insert w.dictwd w.nextCode p, nextCode := w.nextCode + 1 } := if_pos h

/-- A full table takes no more phrases (R243). -/
theorem Work.storeWd_of_full {w : Work} (p : Phrase) (h : ¬ w.dictwd.length < 4096) : w.storeWd p = w := if_neg h

theorem Work.storeWd_pos (p : Phrase) (w : Work) : (w.storeWd p).pos = w.pos := by
  unfold Work.storeWd
  split <;> rfl

theorem KeepsControl.grown (s : State) (bs : List Byte) (w : Work) : KeepsControl s (s.grown bs w) :=
  ⟨s.grown_cmd bs w, s.grown_status bs w, s.grown_kind bs w⟩

/-- Settles O28: at `POS` 2 a code word is a first one. -/
theorem firstCodeWordMustBeKnown : Obligations.FirstCodeWordMustBeKnown := by
  intro s k hr hpos
  have hfirst := codeEffect_of_first (k := k) hpos
  refine ⟨fun p known hroom => ⟨_, exec_code k hr, ?_⟩, fun unknown => ?_⟩
  · rw [hfirst, (firstCode_goesOn known).fits (State.not_overflowsBy_of_roomFor hroom)]
    exact ⟨s.output_grown _ _, rfl, rfl, rfl, rfl, .grown s _ _, .grown s _ _, .grown s _ _⟩
  · exact unitRaises_of_raise hr List.mem_cons_self (by decide) (hfirst.trans (firstCode_of_unknown unknown))

/-- Settles O29: at any other `POS` a code word is a later one, with an entry or without. -/
theorem laterCodeWordKnownNextOrRejected : Obligations.LaterCodeWordKnownNextOrRejected := by
  intro s k hr hpos
  have hlater := codeEffect_of_later (k := k) hpos
  refine ⟨fun e he hroom => ⟨_, exec_code k hr, ?_⟩, fun unknown hk => ?_⟩
  · have hentry : codeEntry k.toNat s = some e := by
      obtain known | ⟨unknown, hnext, rfl⟩ := he
      · exact codeEntry_of_known known
      · exact codeEntry_next unknown hnext
    rw [hlater, (laterCode_goesOn hentry).fits (State.not_overflowsBy_of_roomFor hroom)]
    refine ⟨s.output_grown _ _, rfl, Work.storeWd_pos _ _, .grown s _ _, .grown s _ _, .grown s _ _, fun hlt => ?_,
      fun hfull => ?_⟩
    · rw [State.grown_work, Work.takeEntry, Work.storeWd_of_lt _ hlt]
      exact ⟨rfl, Dict.get?_insert_self _ _ _, fun q hq => Dict.get?_insert_ne _ _ hq⟩
    · rw [State.grown_work, Work.takeEntry, Work.storeWd_of_full _ (Nat.not_lt.mpr hfull)]
      exact ⟨rfl, rfl⟩
  · exact unitRaises_of_raise hr List.mem_cons_self (by decide)
      (hlater.trans (laterCode_of_noEntry (codeEntry_of_rejected unknown hk)))

/-! ### The dictionary of LZWD as a list of phrases (R44, R237) -/

/-- `DICTWD` knows the phrases `ps` by their positions, and `NEXT_CODE` is the next position. -/
structure Work.ListsWd (w : Work) (ps : List Phrase) : Prop where
  get? : ∀ k, Dict.get? w.dictwd k = ps[k]?
  length : w.dictwd.length = ps.length
  nextCode : w.nextCode = ps.length

/-- `entry` is what the code number `k` stands for behind the entry `prev` (R237, R241). -/
def IsLzwEntry (ps : List Phrase) (prev : Phrase) (k : Nat) (entry : Phrase) : Prop :=
  ps[k]? = some entry ∨ (k = ps.length ∧ entry = prev ++ prev.take 1)

section
variable {s : State} {ps : List Phrase}

theorem Work.ListsWd.start (a : Nat) (w : Work) : (startWork 0x09#8 a w).ListsWd singleBytes :=
  ⟨fun k => (get?_seedsDecode k).trans (getElem?_singleBytes k).symm,
    length_seedsDecode.trans length_singleBytes.symm, length_singleBytes.symm⟩

theorem Work.ListsWd.store {w : Work} (h : w.ListsWd ps) (p : Phrase) : (w.storeWd p).ListsWd (lzwStore ps p) := by
  by_cases hroom : w.dictwd.length < 4096
  · rw [w.storeWd_of_lt p hroom, lzwStore_of_lt p (h.length ▸ hroom)]
    have hnone : Dict.get? w.dictwd w.nextCode = none := by rw [h.get?, h.nextCode, List.getElem?_eq_none le_rfl]
    refine ⟨fun k => ?_, ?_, by simp [h.nextCode]⟩
    · by_cases hk : k = w.nextCode
      · simp [hk, h.nextCode]
      · rw [Dict.get?_insert_ne _ _ hk, h.get? k, List.getElem?_append]
        rw [h.nextCode] at hk
        split
        · rfl
        · rw [List.getElem?_eq_none (by omega), List.getElem?_eq_none (by simp; omega)]
    · rw [Dict.length_insert _ hnone, h.length, List.length_append, List.length_singleton]
  · rw [w.storeWd_of_full p hroom, lzwStore_of_full p (h.length ▸ hroom)]
    exact h

theorem Work.ListsWd.takeEntry {w : Work} (h : w.ListsWd ps) (e : Phrase) :
    (w.takeEntry e).ListsWd (lzwStore ps (w.prev ++ e.take 1)) := by
  have hstored := h.store (w.prev ++ e.take 1)
  exact ⟨hstored.get?, hstored.length, hstored.nextCode⟩

/-- The machine and the algorithm agree on a code's entry. -/
theorem Work.ListsWd.codeEntry_iff (h : s.work.ListsWd ps) (k : Nat) (e : Phrase) :
    codeEntry k s = some e ↔ IsLzwEntry ps s.work.prev k e := by
  rw [codeEntry, h.get?, h.nextCode, IsLzwEntry]
  cases hk : ps[k]? with
  | some p =>
    have hne : k ≠ ps.length := fun heq => by simp [heq] at hk
    simp [hne]
  | none => simp [eq_comm (a := e)]

/-! ### One iteration of LZWD (R238, R239, R240) -/

theorem State.inFrom_add_two {p : Nat} {hi lo : Byte} {bs : List Byte} (h : s.inFrom p = hi :: lo :: bs) :
    s.inFrom (p + 2) = bs := by
  rw [State.inFrom_add, h]
  rfl

/-- An iteration of LZWD at a code word of its stream gives it its effect. -/
theorem lzwdIter_of_code {hi lo : Byte} {bs : List Byte} (hbs : s.inFrom s.work.pos = hi :: lo :: bs)
    (heven : s.work.pos = 0 → s.inLen % 2 = 0) :
    lzwdIter s = codeEffect (codeOfBytes hi lo) (s.advance 2) := by
  have hpos : s.work.pos < s.inLen := by
    have hlen := congrArg List.length hbs
    rw [State.length_inFrom, List.length_cons] at hlen
    omega
  rw [lzwdIter_of_inside hpos heven, decoderIter, if_pos hpos, State.unitAt, hbs]
  rfl

/-- Behind the last code word the command ends (R240). -/
theorem lzwdIter_of_end (hpos : s.work.pos ≠ 0) (hend : s.inLen ≤ s.work.pos) : lzwdIter s = finish s := by
  rw [lzwdIter, if_neg hpos, decoderIter_of_end _ hend]

/-- The first code word of an even stream (R239). -/
theorem lzwdIter_of_first {hi lo : Byte} {bs : List Byte} (h0 : s.work.pos = 0) (hbs : s.inFrom 0 = hi :: lo :: bs)
    (heven : s.inLen % 2 = 0) : lzwdIter s = firstCode (codeOfBytes hi lo).toNat (s.advance 2) :=
  (lzwdIter_of_code (h0 ▸ hbs) fun _ => heven).trans (codeEffect_of_first (by rw [State.advance_work, h0]))

/-- The low byte of a code word's number is its less significant byte (R103). -/
theorem ofNat_codeOfBytes (hi lo : Byte) : BitVec.ofNat 8 (codeOfBytes hi lo).toNat = lo := by
  apply BitVec.eq_of_toNat_eq
  rw [BitVec.toNat_ofNat, toNat_codeOfBytes]
  omega

/-- A first code below 256 takes the machine and the algorithm on alike. -/
theorem lzwdIter_first_goesOn {hi lo : Byte} {bs : List Byte} (h0 : s.work.pos = 0)
    (hbs : s.inFrom 0 = hi :: lo :: bs) (heven : s.inLen % 2 = 0) (hcode : (codeOfBytes hi lo).toNat < 256)
    (h : s.work.ListsWd singleBytes) :
    ∃ w : Work, w.pos = 2 ∧ w.ListsWd singleBytes ∧ w.prev = [lo] ∧ GoesOnWriting [lo] w s (lzwdIter s) := by
  have known : Dict.get? (s.advance 2).work.dictwd (codeOfBytes hi lo).toNat = some [lo] := by
    rw [State.advance_work, h.get?, getElem?_singleBytes, if_pos hcode, ofNat_codeOfBytes]
  rw [lzwdIter_of_first h0 hbs heven]
  have hfirst := firstCode_goesOn known
  exact ⟨{ (s.advance 2).work with prev := [lo] }, congrArg (· + 2) h0, ⟨h.get?, h.length, h.nextCode⟩, rfl,
    .of_setWork hfirst⟩

/-- A first code of 256 or more is unknown. -/
theorem lzwdIter_first_of_unknown {hi lo : Byte} {bs : List Byte} (h0 : s.work.pos = 0)
    (hbs : s.inFrom 0 = hi :: lo :: bs) (heven : s.inLen % 2 = 0) (hcode : 256 ≤ (codeOfBytes hi lo).toNat)
    (h : s.work.ListsWd singleBytes) : lzwdIter s = raise .corruptStream (s.advance 2) := by
  rw [lzwdIter_of_first h0 hbs heven]
  refine firstCode_of_unknown ((h.get? _).trans ?_)
  rw [getElem?_singleBytes, if_neg (Nat.not_lt.mpr hcode)]

/-- The first iteration of LZWD fails, or stands at a code below 256 in an even stream. -/
theorem lzwdIter_first_cases (h0 : s.work.pos = 0) (h : s.work.ListsWd singleBytes) :
    (∃ k u, lzwdIter s = raise k u) ∨
      ∃ hi lo bs, s.inFrom 0 = hi :: lo :: bs ∧ s.inLen % 2 = 0 ∧ (codeOfBytes hi lo).toNat < 256 := by
  obtain heven | hodd := Nat.mod_two_eq_zero_or_one s.inLen
  case inr => exact .inl ⟨_, _, lzwdIter_of_odd h0 hodd⟩
  have hlen := s.length_inFrom 0
  cases hbs : s.inFrom 0 with
  | nil =>
    rw [hbs] at hlen
    exact .inl ⟨_, _, lzwdIter_of_empty h0 hlen.symm⟩
  | cons hi tail =>
    cases tail with
    | nil =>
      rw [hbs, List.length_singleton] at hlen
      omega
    | cons lo bs =>
      obtain hknown | hunknown := Nat.lt_or_ge (codeOfBytes hi lo).toNat 256
      · exact .inr ⟨hi, lo, bs, rfl, heven, hknown⟩
      · exact .inl ⟨_, _, lzwdIter_first_of_unknown h0 hbs heven hunknown h⟩

/-- A later code word of the stream. -/
theorem lzwdIter_of_later {hi lo : Byte} {bs : List Byte} (hpos : s.work.pos ≠ 0)
    (hbs : s.inFrom s.work.pos = hi :: lo :: bs) :
    lzwdIter s = laterCode (codeOfBytes hi lo).toNat (s.advance 2) :=
  (lzwdIter_of_code hbs fun h0 => absurd h0 hpos).trans
    (codeEffect_of_later (by rw [State.advance_work]; exact fun h2 => hpos (Nat.add_eq_right.mp h2)))

/-- A later code with an entry takes the machine and the algorithm on alike. -/
theorem lzwdIter_goesOn {hi lo : Byte} {bs : List Byte} {entry : Phrase} (hpos : s.work.pos ≠ 0)
    (hbs : s.inFrom s.work.pos = hi :: lo :: bs) (h : s.work.ListsWd ps)
    (found : IsLzwEntry ps s.work.prev (codeOfBytes hi lo).toNat entry) :
    ∃ w : Work, w.pos = s.work.pos + 2 ∧ w.ListsWd (lzwStore ps (s.work.prev ++ entry.take 1)) ∧ w.prev = entry ∧
      GoesOnWriting entry w s (lzwdIter s) := by
  have hadvance : (s.advance 2).work.ListsWd ps := ⟨h.get?, h.length, h.nextCode⟩
  rw [lzwdIter_of_later hpos hbs]
  exact ⟨_, Work.storeWd_pos _ _, hadvance.takeEntry entry, rfl,
    .of_setWork (laterCode_goesOn ((hadvance.codeEntry_iff _ _).mpr found))⟩

/-- A later iteration of LZWD ends the command, fails, or stands at a code with an entry. -/
theorem lzwdIter_cases (hpos : s.work.pos ≠ 0) (h : s.work.ListsWd ps) :
    (s.inFrom s.work.pos = [] ∧ lzwdIter s = finish s) ∨ (∃ k u, lzwdIter s = raise k u) ∨
      ∃ hi lo bs entry, s.inFrom s.work.pos = hi :: lo :: bs ∧
        IsLzwEntry ps s.work.prev (codeOfBytes hi lo).toNat entry := by
  obtain hlt | hend := Nat.lt_or_ge s.work.pos s.inLen
  case inr => exact .inl ⟨State.inFrom_of_end hend, lzwdIter_of_end hpos hend⟩
  refine .inr ?_
  have hcons := State.inFrom_eq_cons hlt
  cases hbs : s.inFrom (s.work.pos + 1) with
  | nil =>
    rw [hbs] at hcons
    have hcut : decode .lzwcode (s.inFrom s.work.pos) = .error .codeTruncated := by
      rw [hcons]
      rfl
    exact .inl ⟨_, _, (lzwdIter_of_inside hlt fun h0 => absurd h0 hpos).trans (decoderIter_of_error hlt hcut)⟩
  | cons lo bs =>
    rw [hbs] at hcons
    have hadvance : (s.advance 2).work.ListsWd ps := ⟨h.get?, h.length, h.nextCode⟩
    cases hentry : codeEntry (codeOfBytes (s.inByte s.work.pos) lo).toNat (s.advance 2) with
    | none => exact .inl ⟨_, _, (lzwdIter_of_later hpos hcons).trans (laterCode_of_noEntry hentry)⟩
    | some entry => exact .inr ⟨_, lo, bs, entry, hcons, (hadvance.codeEntry_iff _ _).mp hentry⟩

end

/-! ### The command LZWD (R237, R240) -/

/-- A stream that decodes is one of whole code words (R238). -/
theorem LzwDecodes.even {bs y : List Byte} {ps : List Phrase} {prev : Phrase} (h : LzwDecodes bs ps prev y) :
    bs.length % 2 = 0 := by
  induction h with
  | stop => rfl
  | code hi lo bs y ps prev entry found tail ih =>
    rw [List.length_cons, List.length_cons]
    omega

/-- From a later cursor on, the loop of LZWD writes what the algorithm decodes the rest of the stream to. -/
theorem LzwDecodes.endsWriting {bs y : List Byte} {ps : List Phrase} {prev : Phrase} (h : LzwDecodes bs ps prev y)
    {s : State} {m : Nat} (hr : s.running 0x09#8) (hin : s.inputOk) (hpos : s.work.pos ≠ 0)
    (hbs : s.inFrom s.work.pos = bs) (hps : s.work.ListsWd ps) (hprev : s.work.prev = prev) (hm : bs.length < m) :
    EndsWriting y s (runLoop (guardLen lzwdIter) m s) := by
  induction h generalizing s m with
  | stop ps prev =>
    obtain ⟨m, rfl⟩ := Nat.exists_eq_add_of_le' (Nat.one_le_of_lt hm)
    have hend : s.inLen ≤ s.work.pos := Nat.le_of_sub_eq_zero (by rw [← State.length_inFrom, hbs]; rfl)
    exact .of_finish m hr.1 ((guardLen_of_ok hin).trans (lzwdIter_of_end hpos hend))
  | code hi lo bs y ps prev entry found tail ih =>
    subst hprev
    obtain ⟨m, rfl⟩ := Nat.exists_eq_add_of_le' (Nat.one_le_of_lt hm)
    obtain ⟨w, hw, hstored, hentry, hiter⟩ := lzwdIter_goesOn hpos hbs hps found
    rw [← guardLen_of_ok (iter := lzwdIter) hin] at hiter
    refine .of_goesOn m hr.1 hiter (ih (hr.grown _ w) (inputOk_grown hin _ w) ?_ ?_ hstored hentry ?_)
    · rw [State.grown_work, hw]
      exact Nat.succ_ne_zero _
    · rw [State.inFrom_grown, State.grown_work, hw, State.inFrom_add_two hbs]
    · rw [List.length_cons, List.length_cons] at hm
      omega

/-- A loop of iterations that starts with an error completion is that. -/
theorem runLoop_of_raise {iter : State → State} {s u : State} {k : ErrKind} (n : Nat) (hs : s.status = .busy)
    (hin : s.inputOk) (h : iter s = raise k u) : runLoop (guardLen iter) (n + 1) s = raise k u := by
  rw [runLoop_succ_of_busy _ _ hs, guardLen_of_ok hin, h, runLoop_of_not_busy _ _ (by simp)]

/-- What LZWD's loop has written behind its first code word where it ends `DONE`, the algorithm decodes. -/
theorem lzwDecodes_of_done {s : State} {ps : List Phrase} {m : Nat} (hr : s.running 0x09#8) (hin : s.inputOk)
    (hpos : s.work.pos ≠ 0) (hps : s.work.ListsWd ps) (hd : (runLoop (guardLen lzwdIter) m s).status = .done) :
    ∃ y, LzwDecodes (s.inFrom s.work.pos) ps s.work.prev y ∧
      (runLoop (guardLen lzwdIter) m s).output = s.output ++ y := by
  induction m generalizing s ps with
  | zero => cases hr.1.symm.trans hd
  | succ m ih =>
    have hnotRaised {k : ErrKind} : ¬ ∃ u, lzwdIter s = raise k u := by
      rintro ⟨u, hiter⟩
      rw [runLoop_of_raise m hr.1 hin hiter, raise_status] at hd
      cases hd
    rw [runLoop_succ_of_busy _ _ hr.1, guardLen_of_ok hin] at hd ⊢
    obtain ⟨hend, hiter⟩ | ⟨k, hraise⟩ | ⟨hi, lo, bs, entry, hbs, found⟩ := lzwdIter_cases hpos hps
    · rw [hiter, runLoop_of_not_busy _ _ (by simp), hend, finish_output]
      exact ⟨[], .stop ps _, (List.append_nil _).symm⟩
    · exact absurd hraise hnotRaised
    · obtain ⟨w, hw, hstored, hentry, hfits, hover⟩ := lzwdIter_goesOn hpos hbs hps found
      rw [hfits (mt hover hnotRaised)] at hd ⊢
      have hnext : (s.grown entry w).work.pos ≠ 0 := by
        rw [State.grown_work, hw]
        exact Nat.succ_ne_zero _
      obtain ⟨y, htail, hout⟩ := ih (hr.grown _ w) (inputOk_grown hin _ w) hnext hstored hd
      rw [State.inFrom_grown, State.grown_work, hw, State.inFrom_add_two hbs, hentry] at htail
      exact ⟨entry ++ y, hbs ▸ .code hi lo bs y ps _ entry found htail,
        by rw [hout, State.output_grown, List.append_assoc]⟩

theorem exec_lzwd {s : State} (hb : s.status ≠ .busy) :
    exec .lzwd s = .next (runLoop (guardLen lzwdIter) (s.inLen + 2) (start 0x09#8 s)) :=
  issue_runStream_of_not_busy hb

/-- LZWD's first code word and the algorithm's: from its start on, the command writes the whole output. -/
theorem endsWriting_lzwd {s : State} {hi lo : Byte} {bs y : List Byte} {n : Nat} (hr : s.running 0x09#8)
    (hin : s.inputOk) (h0 : s.work.pos = 0) (hps : s.work.ListsWd singleBytes) (hinput : s.inFrom 0 = hi :: lo :: bs)
    (hcode : (codeOfBytes hi lo).toNat < 256) (h : LzwDecodes bs singleBytes [lo] y) (hn : bs.length < n) :
    EndsWriting (lo :: y) s (runLoop (guardLen lzwdIter) (n + 1) s) := by
  have heven : s.inLen % 2 = 0 := by
    have hlen := congrArg List.length hinput
    have hbs := h.even
    rw [State.length_inFrom, List.length_cons, List.length_cons] at hlen
    omega
  obtain ⟨w, hw, hlists, hprev, hiter⟩ := lzwdIter_first_goesOn h0 hinput heven hcode hps
  rw [← guardLen_of_ok (iter := lzwdIter) hin] at hiter
  refine .of_goesOn n hr.1 hiter
    (h.endsWriting (hr.grown _ w) (inputOk_grown hin _ w) ?_ ?_ hlists hprev hn)
  · rw [State.grown_work, hw]
    decide
  · rw [State.inFrom_grown, State.grown_work, hw]
    exact State.inFrom_add_two hinput

/-- Where LZWD's loop, from its start on, ends `DONE`, the stream is one that the algorithm decodes to its output. -/
theorem exists_lzwDecodes_of_done {s : State} {n : Nat} (hr : s.running 0x09#8) (hin : s.inputOk)
    (h0 : s.work.pos = 0) (hps : s.work.ListsWd singleBytes)
    (hd : (runLoop (guardLen lzwdIter) (n + 1) s).status = .done) :
    ∃ hi lo bs y, s.inFrom 0 = hi :: lo :: bs ∧ (codeOfBytes hi lo).toNat < 256 ∧ LzwDecodes bs singleBytes [lo] y ∧
      (runLoop (guardLen lzwdIter) (n + 1) s).output = s.output ++ lo :: y := by
  have hnotRaised {k : ErrKind} : ¬ ∃ u, lzwdIter s = raise k u := by
    rintro ⟨u, hiter⟩
    rw [runLoop_of_raise n hr.1 hin hiter, raise_status] at hd
    cases hd
  obtain ⟨k, hraise⟩ | ⟨hi, lo, bs, hinput, heven, hcode⟩ := lzwdIter_first_cases h0 hps
  · exact absurd hraise hnotRaised
  · obtain ⟨w, hw, hlists, hprev, hfits, hover⟩ := lzwdIter_first_goesOn h0 hinput heven hcode hps
    rw [runLoop_succ_of_busy _ _ hr.1, guardLen_of_ok hin, hfits (mt hover hnotRaised)] at hd ⊢
    have hnext : (s.grown [lo] w).work.pos ≠ 0 := by
      rw [State.grown_work, hw]
      decide
    obtain ⟨y, htail, hout⟩ := lzwDecodes_of_done (hr.grown _ w) (inputOk_grown hin _ w) hnext hlists hd
    have hrest : s.inFrom 2 = bs := State.inFrom_add_two hinput
    rw [State.inFrom_grown, State.grown_work, hw, hrest, hprev] at htail
    exact ⟨hi, lo, bs, y, hinput, hcode, htail, by rw [hout, State.output_grown, List.append_assoc]; rfl⟩

/-- Settles O25: LZWD starts at the head of its input with the single bytes, and its loop goes as the algorithm does. -/
theorem lzwDecodesExactlyTheStreams : Obligations.LzwDecodesExactlyTheStreams := by
  intro s hb hin
  have hr : (start 0x09#8 s).running 0x09#8 := ⟨start_status _ s, start_cmd _ s⟩
  have hempty : (start 0x09#8 s).output = [] := State.output_of_outLen_zero (start_outLen 0x09#8 s)
  have hps : (start 0x09#8 s).work.ListsWd singleBytes := .start s.arg0 s.work
  have hexec := exec_lzwd hb
  refine ⟨fun hi lo bs y hinput hcode h => ?_, fun t ht hd => ?_⟩
  · have hlen := congrArg List.length hinput
    rw [State.length_input, List.length_cons, List.length_cons] at hlen
    exact .of_endsWriting ⟨rfl, trivial⟩ (by decide) hexec
      (endsWriting_lzwd hr hin rfl hps hinput hcode h (by omega))
  · cases hexec.symm.trans ht
    obtain ⟨hi, lo, bs, y, hinput, hcode, hdecodes, hout⟩ := exists_lzwDecodes_of_done hr hin rfl hps hd
    rw [hempty, List.nil_append] at hout
    exact ⟨hi, lo, bs, y, hinput, hcode, hdecodes, hout⟩

/-! ### The tests of the whole stream (R238, R239) -/

/-- A first iteration that fails is the whole command. -/
theorem failsWith_lzwd_of_raise {s u : State} {k : ErrKind} (hb : s.status ≠ .busy) (hin : s.inputOk)
    (h : lzwdIter (start 0x09#8 s) = raise k u) : FailsWith .lzwd k s fun t => t.outLen = 0 := by
  have hexec := exec_lzwd hb
  rw [runLoop_of_raise (s := start 0x09#8 s) _ (start_status _ s) hin h] at hexec
  obtain ⟨hcmd, -⟩ := commandFrame .lzwd s _ ⟨rfl, trivial⟩ hexec
  exact .of_exec ⟨rfl, trivial⟩ hexec (by rw [raise_outLen, ← raise_cmd k u, hcmd]; rfl)

/-- Settles O27: the first iteration tests parity, emptiness and the first code in that order. -/
theorem lzwdTestsTheWholeStream : Obligations.LzwdTestsTheWholeStream := by
  intro s hb hin
  refine ⟨fun hodd => ?_, fun h0 => ?_, fun heven h2 hcode => ?_⟩
  · exact failsWith_lzwd_of_raise hb hin (lzwdIter_of_odd (s := start 0x09#8 s) rfl hodd)
  · exact (emptyStreamOfEachCodec .lzwd s hb h0).2
  · have hinput : s.inFrom 0 = s.inByte 0 :: s.inByte 1 :: s.inFrom 2 := by
      rw [State.inFrom_eq_cons (by omega), State.inFrom_eq_cons (by omega)]
    rw [← toNat_codeOfBytes] at hcode
    exact failsWith_lzwd_of_raise hb hin
      (lzwdIter_first_of_unknown (s := start 0x09#8 s) rfl hinput heven hcode (.start s.arg0 s.work))

end Sys2Proof.Machine
end

section
/-! SUPPORT. Proofs: LZWD undoes LZWC (O26). -/

namespace Sys2Proof.Machine

/-! ### The decoder's table is one entry behind the encoder's (R241, R242) -/

/-- The encoder's code of its current phrase, where the entry that the decoder does not have yet is the previous entry
and the first byte of that phrase. -/
theorem isLzwEntry_idxOf {ps : List Phrase} {prev cur : Phrase} (hprev : prev ≠ [])
    (hcur : cur ∈ lzwStore ps (prev ++ cur.take 1)) :
    IsLzwEntry ps prev ((lzwStore ps (prev ++ cur.take 1)).idxOf cur) cur := by
  by_cases hroom : ps.length < 4096
  case neg =>
    rw [lzwStore_of_full _ hroom] at hcur ⊢
    exact .inl (List.getElem?_idxOf hcur)
  rw [lzwStore_of_lt _ hroom] at hcur ⊢
  by_cases hmem : cur ∈ ps
  · rw [List.idxOf_append_of_mem hmem]
    exact .inl (List.getElem?_idxOf hmem)
  · have hlast : cur = prev ++ cur.take 1 := List.mem_singleton.mp ((List.mem_append.mp hcur).resolve_left hmem)
    have hfirst : cur.take 1 = prev.take 1 := by
      conv_lhs => rw [hlast]
      exact List.take_append_of_le_length (List.length_pos_iff.mpr hprev)
    rw [List.idxOf_append_of_notMem hmem, ← hlast, List.idxOf_cons_self]
    exact .inr ⟨rfl, hfirst ▸ hlast⟩

/-- The code that the encoder writes for its current phrase decodes to that phrase. -/
theorem LzwDecodes.of_encodeCode {ps : List Phrase} {prev cur : Phrase} {bs y : List Byte} (hprev : prev ≠ [])
    (hcur : cur ≠ []) (henc : LzwEncoding (lzwStore ps (prev ++ cur.take 1)) cur)
    (tail : LzwDecodes bs (lzwStore ps (prev ++ cur.take 1)) cur y) :
    LzwDecodes (encodeCode (BitVec.ofNat 16 ((lzwStore ps (prev ++ cur.take 1)).idxOf cur)) ++ bs) ps prev
      (cur ++ y) := by
  have hmem := henc.cur.resolve_left hcur
  have hword : (lzwStore ps (prev ++ cur.take 1)).idxOf cur < 65536 := (henc.idxOf_lt hmem).trans (by decide)
  refine .code _ _ bs y ps prev cur ?_ tail
  rw [codeOfBytes_hi_lo, BitVec.toNat_ofNat, Nat.mod_eq_of_lt hword]
  exact isLzwEntry_idxOf hprev hmem

/-- The encoder's stream decodes, with the table one entry behind, to the current phrase and the rest of the input. -/
theorem lzwDecodes_lzwEncode {ps : List Phrase} {prev cur : Phrase} {bs : List Byte} (hprev : prev ≠ [])
    (hcur : cur ≠ []) (henc : LzwEncoding (lzwStore ps (prev ++ cur.take 1)) cur) :
    LzwDecodes (codeBytes (lzwEncode (lzwStore ps (prev ++ cur.take 1)) cur bs)) ps prev (cur ++ bs) := by
  induction bs generalizing ps prev cur with
  | nil =>
    rw [lzwEncode, if_neg hcur]
    exact .of_encodeCode hprev hcur henc (.stop _ _)
  | cons b bs ih =>
    by_cases hmem : cur ++ [b] ∈ lzwStore ps (prev ++ cur.take 1)
    · rw [lzwEncode_of_mem bs hmem]
      have htake : (cur ++ [b]).take 1 = cur.take 1 := List.take_append_of_le_length (List.length_pos_iff.mpr hcur)
      have hrest := ih (ps := ps) (cur := cur ++ [b]) hprev (by simp) (htake.symm ▸ henc.setCur hmem)
      rwa [htake, List.append_assoc] at hrest
    · rw [lzwEncode_of_not_mem bs hmem]
      exact .of_encodeCode hprev hcur henc (ih hcur (List.cons_ne_nil b []) (henc.store _ b))

/-- The encoder's first code is the first symbol, and its other codes decode behind it to the other symbols. -/
theorem exists_lzwEncode_cons (b : Byte) (bs : List Byte) :
    ∃ ks, lzwEncode singleBytes [] (b :: bs) = b.toNat :: ks ∧ LzwDecodes (codeBytes ks) singleBytes [b] bs := by
  rw [lzwEncode_of_mem bs (LzwEncoding.start.single b), List.nil_append]
  cases bs with
  | nil => exact ⟨[], by rw [lzwEncode, if_neg (List.cons_ne_nil b []), idxOf_singleBytes], .stop _ _⟩
  | cons c cs =>
    have hnew : [b] ++ [c] ∉ singleBytes := fun hmem => by
      obtain ⟨_, hsingle⟩ := mem_singleBytes_iff.mp hmem
      cases hsingle
    rw [lzwEncode_of_not_mem cs hnew, idxOf_singleBytes]
    have henc : LzwEncoding (lzwStore singleBytes ([b] ++ [c].take 1)) [c] := LzwEncoding.start.store _ c
    have hrest := lzwDecodes_lzwEncode (bs := cs) (List.cons_ne_nil b []) (List.cons_ne_nil c []) henc
    exact ⟨_, rfl, hrest⟩

/-! ### The round trip (R235, R239, R245) -/

/-- LZWD undoes LZWC's stream of a non-empty input. -/
theorem writes_lzwd_of_lzwEncode {s : State} {x : List Byte} (hb : s.status ≠ .busy) (hin : s.inputOk) (hx : x ≠ [])
    (hinput : s.input = codeBytes (lzwEncode singleBytes [] x)) : Writes .lzwd s x := by
  obtain ⟨b, bs, rfl⟩ := List.exists_cons_of_ne_nil hx
  obtain ⟨ks, hencode, hdecodes⟩ := exists_lzwEncode_cons b bs
  obtain ⟨hwrites, -⟩ := lzwDecodesExactlyTheStreams s hb hin
  have hword : (BitVec.ofNat 16 b.toNat).toNat = b.toNat := by
    have hb := b.isLt
    rw [BitVec.toNat_ofNat, Nat.mod_eq_of_lt (by omega)]
  have hlo : codeLo (BitVec.ofNat 16 b.toNat) = b := by
    rw [codeLo, hword, Nat.mod_eq_of_lt b.isLt, BitVec.ofNat_toNat, BitVec.setWidth_eq]
  have hcode := congrArg BitVec.toNat (codeOfBytes_hi_lo (BitVec.ofNat 16 b.toNat))
  rw [hlo, hword] at hcode
  rw [hencode, codeBytes_cons, encodeCode, hlo] at hinput
  exact hwrites _ b _ bs hinput (hcode.trans_lt b.isLt) hdecodes

/-- Settles O26: R236's bound is room for the codes, the stream of a non-empty input decodes to it, and that of the empty
one is empty, which LZWD rejects. -/
theorem lzwRoundTrip : Obligations.LzwRoundTrip := by
  intro s hb hin hroom
  obtain ⟨hwrites, hbound, -⟩ := lzwEncodesBoundedTable s hb hin
  obtain ⟨t, hexec, hcmd, hd, hk, hside, hout, -⟩ := hwrites.1 fun c hc => hbound.trans (hroom c hc)
  refine ⟨t, hexec, hcmd, hd, hk, hside, fun hmove => ⟨fun hone => ?_, fun h0 => ?_⟩⟩
  · have hsame : s.roomFor s.inLen := fun c hc => (Nat.le_mul_of_pos_left _ Nat.two_pos).trans (hroom c hc)
    have hne : s.input ≠ [] := List.length_pos_iff.mp (by rwa [State.length_input])
    exact hwrites.undone ⟨rfl, trivial⟩ hexec hd hsame fun hidle hinput =>
      writes_lzwd_of_lzwEncode hidle hmove hne hinput
  · have hlen : t.outLen = 0 := by
      rw [← State.length_output, hout]
      omega
    have hidle : (moveOutToIn t).status ≠ .busy := by
      change t.status ≠ .busy
      rw [hd]
      decide
    exact ⟨hlen, (emptyStreamOfEachCodec .lzwd (moveOutToIn t) hidle hlen).2⟩

end Sys2Proof.Machine
end

section
/-! SUPPORT. Proofs: how a command ends: CLR in `IDLE`, every other one in `DONE` or in `ERROR`, and one over too long
an input with `IllegalOperation` (O31, O33, O35). -/

namespace Sys2Proof.Machine

/-! ### The opcode of an issued command (R92, R93) -/

/-- An issued command is the one that its opcode selects. -/
theorem decodeCommand_opcode {i : Instr} (hi : IsIssued i) : decodeCommand (opcode i) = i := by
  obtain ⟨hformat, hwf⟩ := hi
  cases i with
  | venc | vdec | matcher | lz77c | lz77d | lz78c | lz78d | lzwc | lzwd | clr => rfl
  | illegal op => exact decodeCommand_of_unassigned hwf
  | varintCont | varintLast | lz77tokNolit | lz77tokLit | lz77tokReserved | lz78pair | lzwcode => cases hformat

theorem opcode_ne_clr {i : Instr} (hi : IsIssued i) (h : i ≠ .clr) : opcode i ≠ 0x0F#8 := fun hop =>
  h ((decodeCommand_opcode hi).symm.trans (congrArg decodeCommand hop))

/-! ### CLR (R264) -/

theorem exec_clr {s : State} (hb : s.status ≠ .busy) : exec .clr s = .next (clear (start 0x0F#8 s)) :=
  issue_of_not_busy hb

/-- Settles O31: CLR's start leaves `OUT`, and its body the bytes of it. -/
theorem clrRestoresIdle : Obligations.ClrRestoresIdle := by
  intro s hb
  have hexec := exec_clr hb
  obtain ⟨hcmd, hside, hresults, -⟩ := commandFrame .clr s _ ⟨rfl, trivial⟩ hexec
  exact ⟨_, hexec, hcmd, rfl, rfl, rfl, (start_keepsOut s rfl).outByte, hside, hresults (.inr rfl)⟩

/-! ### An input longer than `IN_CAP` (R262) -/

theorem State.inTooLong_iff (s : State) : s.inTooLong = true ↔ ∃ c, s.par.inCap = some c ∧ c < s.inLen := by
  unfold State.inTooLong
  split <;> simp [*]

theorem isIssued_of_mem_inCommands {i : Instr} (hi : i ∈ inCommands) : IsIssued i := by
  have hdecode : ∀ i ∈ inCommands, decodeCommand (opcode i) = i := by decide
  exact hdecode i hi ▸ isIssued_decodeCommand (opcode i)

theorem engineIter_of_tooLong {i : Instr} {s : State} (hi : i ∈ inCommands) (hc : s.cmd = opcode i)
    (h : s.inTooLong = true) : engineIter s = raise .illegalOperation s := by
  simp only [inCommands, List.mem_cons, List.not_mem_nil, or_false] at hi
  rcases hi with rfl | rfl | rfl | rfl | rfl | rfl | rfl | rfl <;>
    (rw [engineIter, hc]; exact guardLen_of_tooLong h)

theorem iterations_pos (i : Instr) (n : Nat) : 0 < iterations i n := by
  unfold iterations
  split <;> exact Nat.succ_pos _

/-- A command that reads `IN` fails in its first iteration where the input is too long. -/
theorem exec_of_tooLong {i : Instr} {s : State} (hi : i ∈ inCommands) (hb : s.status ≠ .busy)
    (h : s.inTooLong = true) : exec i s = .next (raise .illegalOperation (start (opcode i) s)) := by
  have hlong : (start (opcode i) s).inTooLong = true := (SameInputs.start (opcode i) s).inTooLong.trans h
  obtain ⟨n, hn⟩ := Nat.exists_eq_add_one.mpr (iterations_pos i s.inLen)
  rw [exec_eq_runLoop (isIssued_of_mem_inCommands hi) hb, hn, runLoop_succ_of_busy _ _ (start_status _ s),
    engineIter_of_tooLong hi (start_cmd _ s) hlong, runLoop_of_not_busy _ _ (by simp)]

/-- Settles O33: the first iteration of a command that reads `IN` begins with the test. -/
theorem tooLongInputIsIllegal : Obligations.TooLongInputIsIllegal := by
  intro i s hi hb
  refine ⟨fun c hcap hlt => ?_, fun hcap => ?_⟩
  · have hlong := s.inTooLong_iff.mpr ⟨c, hcap, hlt⟩
    exact .of_exec (isIssued_of_mem_inCommands hi) (exec_of_tooLong hi hb hlong) trivial
  · simp [State.inputOk, State.inTooLong, hcap]

/-! ### The end of every command (R261) -/

theorem Extends.status {s t : State} (h : Extends s t) : t.status = s.status := by
  obtain ⟨bs, w, -, rfl⟩ := h.appends
  exact s.grown_status bs w

theorem Extends.kind {s t : State} (h : Extends s t) : t.kind = s.kind := by
  obtain ⟨bs, w, -, rfl⟩ := h.appends
  exact s.grown_kind bs w

/-- The command has ended: in `DONE` with no kind, or in `ERROR` with one (R261). -/
def State.HasEnded (s : State) : Prop :=
  (s.status = .done ∧ s.kind = none) ∨ (s.status = .error ∧ ∃ k, s.kind = some k)

/-- The command runs on with no kind, or it has ended. -/
def State.RunsOrHasEnded (s : State) : Prop := (s.status = .busy ∧ s.kind = none) ∨ s.HasEnded

theorem State.RunsOrHasEnded.hasEnded {s : State} (h : s.RunsOrHasEnded) (hb : s.status ≠ .busy) : s.HasEnded :=
  h.resolve_left fun hruns => hb hruns.1

/-- An iteration of a command that works leaves it running, or ends it with `STATE` and `KIND` in agreement. -/
theorem Iteration.runsOrHasEnded {s t : State} (h : Iteration s t) (hs : s.status = .busy) (hk : s.kind = none) :
    t.RunsOrHasEnded := by
  cases h with
  | goesOn hu => exact .inl ⟨hu.status.trans hs, hu.kind.trans hk⟩
  | raises hu k => exact .inr (.inr ⟨raise_status k _, k, raise_kind k _⟩)
  | finishes hu | matched hu | varint hu => exact .inr (.inl ⟨rfl, hu.kind.trans hk⟩)

theorem engineIter_runsOrHasEnded {s : State} (h : s.RunsOrHasEnded) (hb : s.status = .busy) (hc : s.cmd ≠ 0x0F#8) :
    (engineIter s).RunsOrHasEnded := by
  rcases h with ⟨-, hk⟩ | ⟨hd, -⟩ | ⟨he, -⟩
  · exact (engineIter_iteration hc).runsOrHasEnded hb hk
  · simp [hb] at hd
  · simp [hb] at he

/-- From its start on, a command but CLR runs or has ended. -/
theorem runLoop_start_runsOrHasEnded {op : Byte} (s : State) (hop : op ≠ 0x0F#8) (n : Nat) :
    (runLoop engineIter n (start op s)).RunsOrHasEnded := by
  have hloop := runLoop_keeps (fun u => u.cmd = op ∧ u.RunsOrHasEnded) engineIter
    (fun u ⟨hcmd, hu⟩ hb => ⟨(engineIter_cmd u).trans hcmd, engineIter_runsOrHasEnded hu hb (hcmd ▸ hop)⟩) n
    ⟨start_cmd op s, .inl ⟨start_status op s, start_kind op s⟩⟩
  exact hloop.2

/-- Settles O35: a command but CLR leaves `BUSY` within its iterations, and so has ended; CLR's body leaves it
at once for `IDLE`. -/
theorem everyCommandEnds : Obligations.EveryCommandEnds := by
  intro i s hi hb
  by_cases hclr : i = .clr
  · subst hclr
    exact ⟨_, exec_clr hb, fun h => absurd rfl h, fun _ => ⟨rfl, rfl⟩⟩
  · have hended := (runLoop_start_runsOrHasEnded s (opcode_ne_clr hi hclr) _).hasEnded (runLoop_start_not_busy s hi)
    exact ⟨_, exec_eq_runLoop hi hb, fun _ => hended, fun h => absurd h hclr⟩

end Sys2Proof.Machine
end

section
/-! SUPPORT. Proofs: error completion by command, the kinds a command can raise, and the idle block (O36, O38, O53). -/

namespace Sys2Proof.Machine

/-! ### The idle block (R300, R321) -/

/-- Settles O53: a step with no command running and no move left is the identity. -/
theorem idleBlockKeepsItsState : Obligations.IdleBlockKeepsItsState := by
  intro s hb hhost
  rw [step, if_neg hb, hhost]

/-! ### The one end state of a command -/

theorem eq_of_exec {i : Instr} {s t u : State} (h : exec i s = .next t) (h' : exec i s = .next u) : t = u :=
  Host.Outcome.next.inj (h.symm.trans h')

theorem FailsWith.of_next {i : Instr} {k : ErrKind} {s t : State} {P : State → Prop} (h : FailsWith i k s P)
    (ht : exec i s = .next t) : t.kind = some k ∧ P t := by
  obtain ⟨u, hu, -, -, hk, -, hP⟩ := h
  exact eq_of_exec hu ht ▸ ⟨hk, hP⟩

theorem Succeeds.kind_of_next {i : Instr} {s t : State} {P : State → Prop} (h : Succeeds i s P)
    (ht : exec i s = .next t) : t.kind = none := by
  obtain ⟨u, hu, -, -, hk, -⟩ := h
  exact eq_of_exec hu ht ▸ hk

/-! ### Error completion (R287) -/

/-- The issued commands by what they own: `OUT`, the results, or neither (R92, R93). -/
theorem IsIssued.cases {i : Instr} (hi : IsIssued i) :
    i ∈ outCommands ∨ (i = .vdec ∨ i = .matcher) ∨ i = .clr ∨ ∃ op, i = .illegal op ∧ ¬ assignedOpcode op := by
  obtain ⟨hformat, hwf⟩ := hi
  cases i with
  | venc | lz77c | lz77d | lz78c | lz78d | lzwc | lzwd => exact .inl (by decide)
  | vdec => exact .inr (.inl (.inl rfl))
  | matcher => exact .inr (.inl (.inr rfl))
  | clr => exact .inr (.inr (.inl rfl))
  | illegal op => exact .inr (.inr (.inr ⟨op, rfl, hwf⟩))
  | varintCont | varintLast | lz77tokNolit | lz77tokLit | lz77tokReserved | lz78pair | lzwcode => cases hformat

/-- An iteration that fails withdraws the output of a command that owns `OUT`. -/
theorem Iteration.outLen_of_error {s t : State} (h : Iteration s t) (hs : s.status = .busy)
    (ho : ownsOut s.cmd = true) (he : t.status = .error) : t.outLen = 0 := by
  cases h with
  | goesOn hu => simp [hu.status, hs] at he
  | raises hu k => rw [raise_outLen, hu.cmd, if_pos ho]
  | finishes hu | matched hu | varint hu => cases he

theorem runLoop_start_outLen_of_error {op : Byte} (s : State) (ho : ownsOut op = true) (n : Nat)
    (he : (runLoop engineIter n (start op s)).status = .error) : (runLoop engineIter n (start op s)).outLen = 0 := by
  have hclr : op ≠ 0x0F#8 := fun h => by simp [h, ownsOut] at ho
  have hloop := runLoop_keeps (fun u => u.cmd = op ∧ (u.status = .error → u.outLen = 0)) engineIter
    (fun u ⟨hcmd, _⟩ hb => ⟨(engineIter_cmd u).trans hcmd,
      (engineIter_iteration (hcmd ▸ hclr)).outLen_of_error hb (hcmd ▸ ho)⟩) n
    ⟨start_cmd op s, fun he => by simp at he⟩
  exact hloop.2 he

/-- Settles O36: an ended command in `ERROR` has a kind and its frame; a command that writes `OUT` withdraws it where
its loop fails, and an illegal opcode leaves `OUT` and the results. -/
theorem errorCompletionByCommand : Obligations.ErrorCompletionByCommand := by
  intro i s t hi ht he
  have hb := not_busy_of_exec hi ht
  obtain ⟨u, hu, hended, hidle⟩ := everyCommandEnds i s hi hb
  obtain rfl := eq_of_exec hu ht
  have hclr : i ≠ .clr := fun h => by simp [(hidle h).1] at he
  have hkind : ∃ k, u.kind = some k := by
    rcases hended hclr with ⟨hd, -⟩ | ⟨-, hk⟩
    · simp [hd] at he
    · exact hk
  obtain ⟨hcmd, hside, hresults, hout, -⟩ := commandFrame i s u hi ht
  refine ⟨hkind, hcmd, hside, fun ho => ?_, fun ho => ?_, fun hv hm => ?_⟩
  · rw [exec_eq_runLoop hi hb] at ht
    cases ht
    exact runLoop_start_outLen_of_error s (ownsOut_of_mem_outCommands i ho) _ he
  · rcases hi.cases with h | h | h | ⟨op, rfl, hop⟩
    · exact absurd h ho
    · exact hout h
    · exact absurd h hclr
    · exact ((unassignedOpcodeIsIllegal op s hop hb).2.of_next ht).2.1
  · rcases hi.cases with h | h | h | ⟨op, rfl, hop⟩
    · exact hresults (.inl h)
    · exact absurd h (not_or.mpr ⟨hv, hm⟩)
    · exact absurd h hclr
    · exact ((unassignedOpcodeIsIllegal op s hop hb).2.of_next ht).2.2

/-! ### The kinds a command can raise (R286) -/

/-- A kind that `ERRKIND` holds is one of `ks`. -/
def State.KindIn (s : State) (ks : List ErrKind) : Prop := ∀ k, s.kind = some k → k ∈ ks

theorem State.KindIn.of_none {s : State} {ks : List ErrKind} (h : s.kind = none) : s.KindIn ks := fun k hk => by
  simp [h] at hk

theorem State.KindIn.of_some {s : State} {ks : List ErrKind} {k : ErrKind} (h : s.kind = some k) (hk : k ∈ ks) :
    s.KindIn ks := fun _ hk' => Option.some.inj (h.symm.trans hk') ▸ hk

theorem State.KindIn.raise {ks : List ErrKind} {k : ErrKind} (hk : k ∈ ks) (s : State) : (raise k s).KindIn ks :=
  .of_some (raise_kind k s) hk

theorem State.KindIn.extends {s t : State} {ks : List ErrKind} (h : s.KindIn ks) (ht : Extends s t) : t.KindIn ks :=
  fun k hk => h k (ht.kind ▸ hk)

/-! #### A command that writes one stream or raises `Overflow` -/

theorem Writes.kindIn {i : Instr} {s t : State} {y : List Byte} {ks : List ErrKind} (h : Writes i s y)
    (overflow : .overflow ∈ ks) (ht : exec i s = .next t) : t.KindIn ks := by
  obtain ⟨hfits, hover⟩ := h
  by_cases hroom : s.roomFor y.length
  · exact .of_none ((hfits hroom).kind_of_next ht)
  · simp only [State.roomFor, not_forall, Nat.not_le] at hroom
    obtain ⟨c, hcap, hlt⟩ := hroom
    exact .of_some ((hover c hcap hlt).of_next ht).1 overflow

/-- A command that writes one stream from an input of admitted length raises nothing but `Overflow` there, and
`IllegalOperation` for a longer one (R262, R286). -/
theorem kindIn_of_writes {i : Instr} {s t : State} (hi : i ∈ inCommands)
    (h : s.status ≠ .busy → s.inputOk → ∃ y, Writes i s y) (ht : exec i s = .next t) :
    t.KindIn [.overflow, .illegalOperation] := by
  have hb := not_busy_of_exec (isIssued_of_mem_inCommands hi) ht
  by_cases hlong : s.inTooLong = true
  · obtain rfl := eq_of_exec (exec_of_tooLong hi hb hlong) ht
    exact .raise (by decide) _
  · obtain ⟨y, hy⟩ := h hb (Bool.eq_false_of_not_eq_true hlong)
    exact hy.kindIn (by decide) ht

/-! #### VDEC and MATCH -/

theorem vdec_kindIn {s t : State} (ht : exec .vdec s = .next t) : t.KindIn (raisable .vdec) := by
  obtain ⟨hlong, hunterminated, hvalue⟩ := vdecReturnsValueAndOffset s (not_busy_of_exec ⟨rfl, trivial⟩ ht)
  by_cases h : s.inTooLong = true
  · exact .of_some ((hlong h).of_next ht).1 (by decide)
  have hin : s.inputOk := Bool.eq_false_of_not_eq_true h
  cases hd : decodeVarint (s.inFrom s.arg0) with
  | none => exact .of_some ((hunterminated hin hd).of_next ht).1 (by decide)
  | some vk =>
    obtain ⟨hwide, hfits⟩ := hvalue vk.1 vk.2 hin hd
    by_cases hfit : s.par.fits vk.1
    · exact .of_none ((hfits hfit).kind_of_next ht)
    · exact .of_some ((hwide hfit).of_next ht).1 (by decide)

theorem matcher_kindIn {s t : State} (ht : exec .matcher s = .next t) : t.KindIn (raisable .matcher) := by
  obtain ⟨hlong, hbehind, hfound⟩ := matchReturnsNearestLongest s (not_busy_of_exec ⟨rfl, trivial⟩ ht)
  by_cases h : s.inTooLong = true
  · exact .of_some ((hlong h).of_next ht).1 (by decide)
  have hin : s.inputOk := Bool.eq_false_of_not_eq_true h
  rcases Nat.lt_or_ge s.arg0 s.inLen with hlt | hge
  · exact .of_none ((hfound hin hlt).kind_of_next ht)
  · exact .of_some ((hbehind hin hge).of_next ht).1 (by decide)

/-! #### The decoders that write `OUT` -/

/-- Bytes that are no whole unit of a stream are malformed or corrupt (R281, R282). -/
theorem errorKind_of_decode {f : Format} {bs : List Byte} {e : DecodeError} (hf : f ≠ .cmd8)
    (h : decode f bs = .error e) : errorKind e = .malformedInput ∨ errorKind e = .corruptStream := by
  have he : e ≠ .opcodeMissing := by
    rintro rfl
    cases f with
    | cmd8 => exact hf rfl
    | varint => cases bs <;> cases h
    | lz77tok =>
      change decodeToken bs = _ at h
      unfold decodeToken at h
      repeat' split at h
      all_goals cases h
    | lz78pair =>
      change decodePair bs = _ at h
      unfold decodePair at h
      repeat' split at h
      all_goals cases h
    | lzwcode =>
      change decodeCode bs = _ at h
      unfold decodeCode at h
      split at h <;> cases h
  cases e with
  | opcodeMissing => exact absurd rfl he
  | varintUnterminated | codeTruncated => exact .inl rfl
  | markerMissing | literalMissing => exact .inr rfl

section
variable {ks : List ErrKind} {s : State}

theorem State.KindIn.orRaise_emitSeq (overflow : .overflow ∈ ks) (h : s.KindIn ks) (bs : List Byte)
    {go : State → State} (hgo : ∀ t : State, t.KindIn ks → (go t).KindIn ks) :
    (orRaise s (emitSeq bs s) go).KindIn ks := by
  rcases emitSeq_spec bs s with ⟨-, hr⟩ | ⟨hroom, hr⟩ <;> rw [hr]
  · exact .raise overflow s
  · exact hgo _ (h.extends (.appendSeq hroom))

theorem applyToken_kindIn (corrupt : .corruptStream ∈ ks) (overflow : .overflow ∈ ks) (h : s.KindIn ks) :
    (applyToken s).KindIn ks := by
  unfold applyToken
  split
  · exact .raise corrupt s
  · split
    · exact .raise corrupt s
    · rw [copyOut_eq_emitSeq]
      refine h.orRaise_emitSeq overflow _ fun t ht => ?_
      rw [emitNext_eq_emitSeq]
      exact ht.orRaise_emitSeq overflow _ fun _ hu => hu

theorem pairEffect_kindIn (corrupt : .corruptStream ∈ ks) (overflow : .overflow ∈ ks) (h : s.KindIn ks)
    (index : Nat) (c : Byte) : (pairEffect index c s).KindIn ks := by
  unfold pairEffect
  split
  · exact .raise corrupt s
  · exact h.orRaise_emitSeq overflow _ fun _ ht => ht

theorem codeEffect_kindIn (corrupt : .corruptStream ∈ ks) (overflow : .overflow ∈ ks) (h : s.KindIn ks)
    (k : CodeWord) : (codeEffect k s).KindIn ks := by
  unfold codeEffect firstCode laterCode
  split <;> split
  · exact .raise corrupt s
  · exact h.orRaise_emitSeq overflow _ fun _ ht => ht
  · exact .raise corrupt s
  · refine h.orRaise_emitSeq overflow _ fun t ht => ?_
    rw [insertWd_eq_storeWd]
    exact ht

/-- A stream unit raises `CorruptStream` or `Overflow` and nothing else. -/
theorem unitEffect_kindIn (corrupt : .corruptStream ∈ ks) (overflow : .overflow ∈ ks) (h : s.KindIn ks) (i : Instr) :
    (unitEffect i s).KindIn ks := by
  cases i with
  | venc | vdec | matcher | lz77c | lz77d | lz78c | lz78d | lzwc | lzwd | clr | illegal | varintCont => exact h
  | varintLast g =>
    change (lastEffect g s).KindIn ks
    unfold lastEffect vdecEnd
    split
    · split
      · exact h
      · exact .raise overflow _
    · exact h
  | lz77tokNolit d l => exact applyToken_kindIn (s := s.setToken d l none) corrupt overflow h
  | lz77tokLit d l c => exact applyToken_kindIn (s := s.setToken d l (some c)) corrupt overflow h
  | lz77tokReserved => exact .raise corrupt s
  | lz78pair index c => exact pairEffect_kindIn corrupt overflow h index c
  | lzwcode k => exact codeEffect_kindIn corrupt overflow h k

theorem decoderIter_kindIn {f : Format} (hf : f ≠ .cmd8) (malformed : .malformedInput ∈ ks)
    (corrupt : .corruptStream ∈ ks) (overflow : .overflow ∈ ks) (h : s.KindIn ks) : (decoderIter f s).KindIn ks := by
  unfold decoderIter
  split
  · split
    · refine .raise ?_ s
      rcases errorKind_of_decode hf ‹_› with hk | hk <;> rwa [hk]
    · exact unitEffect_kindIn (s := s.advance _) corrupt overflow h _
  · exact h

theorem lzwdIter_kindIn (malformed : .malformedInput ∈ ks) (empty : .emptyStream ∈ ks)
    (corrupt : .corruptStream ∈ ks) (overflow : .overflow ∈ ks) (h : s.KindIn ks) : (lzwdIter s).KindIn ks := by
  have hcode := decoderIter_kindIn (f := .lzwcode) nofun malformed corrupt overflow h
  unfold lzwdIter
  split
  · split
    · exact .raise malformed s
    · split
      · exact .raise empty s
      · exact hcode
  · exact hcode

/-- A command that works through `IN` raises what its iterations raise, and `IllegalOperation` in the length test. -/
theorem kindIn_of_runStream {op : Byte} {iter : State → State} {t : State} (illegal : .illegalOperation ∈ ks)
    (hiter : ∀ u : State, u.KindIn ks → (iter u).KindIn ks) (h : issue op (runStream iter) s = .next t) :
    t.KindIn ks := by
  obtain ⟨-, rfl⟩ := issue_next h
  refine runLoop_keeps (·.KindIn ks) (guardLen iter) (fun u hu _ => ?_) _ (.of_none (start_kind op s))
  unfold guardLen
  split
  · exact .raise illegal u
  · exact hiter u hu

end

/-- Settles O38: the commands whose outcomes are settled raise the kinds of those, and the decoders that write `OUT`
what their iterations raise. -/
theorem commandRaisesOnlyItsKinds : Obligations.CommandRaisesOnlyItsKinds := by
  intro i s t k hi ht hk
  have hb := not_busy_of_exec hi ht
  suffices t.KindIn (raisable i) from this k hk
  have hwf := hi.2
  cases i with
  | venc => exact Writes.kindIn (vencAppendsTheVarint s hb) (by decide) ht
  | vdec => exact vdec_kindIn ht
  | matcher => exact matcher_kindIn ht
  | lz77c =>
    refine kindIn_of_writes (by decide) (fun hb hin => ?_) ht
    obtain ⟨⟨y, hy⟩, hwrites⟩ := lz77EncodesGreedyTokens s hb hin
    exact ⟨y, hwrites y hy⟩
  | lz78c => exact kindIn_of_writes (by decide) (fun hb hin => ⟨_, writes_lz78c hb hin⟩) ht
  | lzwc => exact kindIn_of_writes (by decide) (fun hb hin => ⟨_, writes_lzwc hb hin⟩) ht
  | lz77d =>
    exact kindIn_of_runStream (iter := lz77dIter) (by decide)
      (fun _ hu => decoderIter_kindIn nofun (by decide) (by decide) (by decide) hu) ht
  | lz78d =>
    exact kindIn_of_runStream (iter := lz78dIter) (by decide)
      (fun _ hu => decoderIter_kindIn nofun (by decide) (by decide) (by decide) hu) ht
  | lzwd =>
    exact kindIn_of_runStream (iter := lzwdIter) (by decide)
      (fun _ hu => lzwdIter_kindIn (by decide) (by decide) (by decide) (by decide) hu) ht
  | clr =>
    obtain rfl := eq_of_exec (exec_clr hb) ht
    exact .of_none rfl
  | illegal op => exact .of_some ((unassignedOpcodeIsIllegal op s hwf hb).2.of_next ht).1 List.mem_cons_self
  | varintCont | varintLast | lz77tokNolit | lz77tokLit | lz77tokReserved | lz78pair | lzwcode => cases hi.1

end Sys2Proof.Machine
end

section
/-! SUPPORT. Proofs: the reset input between commands (O55). -/

namespace Sys2Proof.Machine

/-- With no command running, the reset input puts the block into the reset state of its own parameters; the host keeps
its later moves and what it read last (R320). -/
theorem step_resetInput {s : State} {rest : List HostOp} (hb : s.status ≠ .busy) (h : s.host = .reset :: rest) :
    step s = .next { State.resetFrom s.par s.freeCount with host := rest, rdata := s.rdata } :=
  step_of_host hb h

/-- Settles O55: the step is the reset input's, and `State.resetFrom` writes R52's values. -/
theorem resetInputRestoresResetValues : Obligations.ResetInputRestoresResetValues :=
  fun _ _ hb h => ⟨_, step_resetInput hb h, rfl, rfl, rfl, rfl, rfl, rfl, rfl, rfl, rfl, rfl⟩

/-- A block that ended in `ERROR`, the matcher's cursor being outside its input (R153); its host resets it and then reads
`STATUS`. -/
def resetAfterError : State :=
  { Tests.loaded [0x41#8] 7 with
    cmd := 0x03#8, status := .error, kind := some .illegalOperation, host := [.reset, .readReg 0x04] }

/-- `ResetInputRestoresResetValues` applies to `resetAfterError`, whose error, input length and `ARG0` it clears. -/
theorem step_resetAfterError :
    ∃ t, step resetAfterError = .next t ∧ t.status = .idle ∧ t.kind = none ∧ t.inLen = 0 ∧ t.arg0 = 0 ∧
      t.host = [.readReg 0x04] := by
  obtain ⟨t, hstep, -, -, hstatus, hkind, -, -, hin, -, harg, hhost⟩ :=
    resetInputRestoresResetValues resetAfterError [.readReg 0x04] nofun rfl
  exact ⟨t, hstep, hstatus, hkind, hin, harg, hhost⟩

end Sys2Proof.Machine
end
